-- ==== Sys2Proof/Word.lean ====
section
/-! DEFINITION. The word types of the AFE (spec/00_scope.md R9): widths only, no arithmetic of the machine's own. -/

namespace Sys2Proof

/-- `u32`: a register, a command word, the data of one host access (R9, R61). -/
abbrev Word := BitVec 32

/-- `i16`: one audio sample, a 16-bit two's-complement integer (R9, R96). -/
abbrev Sample := BitVec 16

/-- `u64`, and a NUM value of the default instance: the 64 bits of a binary64 number (R97, R111). -/
abbrev Double := BitVec 64

/-- A value of the NUM type of one implementation, whichever it is (R7, R110), by its encoding: `dec` undoes `enc`
(R110, R121), so the 64 bits tell the values of every NUM apart (log 4). For binary64 they are the number's own. -/
abbrev NumCode := BitVec 64

/-- A byte offset into the 1 MiB window of the host port (R60). -/
abbrev Offset := BitVec 20

end Sys2Proof
end

