-- ==== Sys2Proof/Config.lean ====
section
/-! DEFINITION. What one implementation fixes (spec/00_scope.md R7, spec/10_state.md R24, R25) and the free values: what
the spec leaves unspecified after an operation and the machine goes on (spec/93_implementation_defined.md U1, U2, U3, U10). -/

namespace Sys2Proof

/-- The default depth of every frame buffer (R7). -/
def Config.defaultNmax : Word := 1024#32

/-- The default depth of `WMEM` and `TDL` (R7). -/
def Config.defaultLmax : Word := 1024#32

/-- The largest depth a region of the address map can hold (R7, R62). -/
def Config.depthCeiling : Nat := 8192

/-- `ID`: "AFE1" (R24). -/
def Config.idValue : Word := 0x41464531#32

/-- The code of the default NUM, IEEE 754 binary64 (R7, R25, R111). -/
def Config.defaultFmt : BitVec 8 := 1#8

/-- The places in which the spec leaves a value unspecified. -/
inductive FreePlace where
  | nanBits   -- sign and fraction of a produced NaN (R118, U3)
  | acc       -- `ACC` between commands (R42, U2)
  | g         -- `G` between commands (R42, U2)
  | pend      -- `PEND` between commands (R43, U2)
  | seqN      -- `SEQR.n` between commands (R44, U2)
  | seqK      -- `SEQR.k` between commands (R44, U2)
  | xbuf      -- buffer contents after reset and DISPOSE (R133, R215, R217, U1, U10)
  | dbuf
  | obuf
  | wmem
  | ybuf
  | ebuf
  | tdl
  deriving DecidableEq, Repr

/-- A free value: nothing constrains it. `draw` is the number of the draw (`State.freeCount`), so that every
occasion has a value of its own; `index` is the element, for a buffer. It has no body: no proof can know a value of it
(DESIGN CHOICE, log 7, 9 and 10; safe). -/
opaque Config.freeValue (place : FreePlace) (draw index : Nat) : BitVec 64

end Sys2Proof
end

