-- ==== Sys2Proof/Syntax.lean ====
section
/-! DEFINITION. The nine commands of the AFE as syntax (spec/30_encoding.md R90 to R93): one constructor per row of
spec/opcode_table.json, and the fields of the one command format. -/

namespace Sys2Proof

/-- A command. `ref` is the `REF` flag, which only RESIDUAL and PROCESS take (R93). -/
inductive Instr where
  | nop
  | configure
  | dispose
  | resetw
  | estimate
  | residual (ref : Bool)
  | adapt
  | process (ref : Bool)
  | clrerr
  deriving DecidableEq, Repr

/-- The three fields of the command format `CMD` (R90): a command word as it is written, legal or not. -/
structure CmdFields where
  opc : BitVec 8
  ref : Bool
  rsv : BitVec 23
  deriving DecidableEq, Repr

end Sys2Proof
end

