-- ==== Sys2Proof/WellFormed.lean ====
section
/-! DEFINITION. Which command words are legal (spec/30_encoding.md R94), as a check of their fields with a named reason
for each refusal. A term of `Instr` is legal by its type; `Instr.wellFormed` (Decode.lean) says it of the word's fields. -/

namespace Sys2Proof

/-- Why a word is no command (R94). -/
inductive Illegal where
  | reservedBits   -- `RSV` is not 0
  | reservedOpc    -- `OPC` is in 0x09 to 0xFF
  | refNotAllowed  -- `REF` = 1 with `OPC` other than 0x05 and 0x07
  deriving DecidableEq, Repr

/-- The first condition of R94 that the fields of a word violate, in the order of R95. -/
def CmdFields.illegal? (f : CmdFields) : Option Illegal :=
  if f.rsv ≠ 0#23 then some .reservedBits
  else if 0x08#8 < f.opc then some .reservedOpc
  else if f.ref = true ∧ f.opc ≠ 0x05#8 ∧ f.opc ≠ 0x07#8 then some .refNotAllowed
  else none

/-- The fields are those of a legal command word. -/
def CmdFields.wellFormed (f : CmdFields) : Bool := f.illegal?.isNone

end Sys2Proof
end

