-- ==== Sys2Proof/Decode.lean ====
section
/-! DEFINITION. The decoder, total on 32-bit words and refusing by name (spec/30_encoding.md R95), the encoder written
from the same table (R90, R92), and the decoder as the opcode table numbers its bits. -/

namespace Sys2Proof

/-- The operation code of a command (R92). -/
def Instr.opc : Instr → BitVec 8
  | .nop => 0x00#8
  | .configure => 0x01#8
  | .dispose => 0x02#8
  | .resetw => 0x03#8
  | .estimate => 0x04#8
  | .residual _ => 0x05#8
  | .adapt => 0x06#8
  | .process _ => 0x07#8
  | .clrerr => 0x08#8

/-- The `REF` flag of a command's word (R92, R93). -/
def Instr.refFlag : Instr → Bool
  | .residual ref => ref
  | .process ref => ref
  | .nop | .configure | .dispose | .resetw | .estimate | .adapt | .clrerr => false

/-- The fields of a command's word (R90, R92). -/
def Instr.fields (i : Instr) : CmdFields := { opc := i.opc, ref := i.refFlag, rsv := 0#23 }

/-- A command is well-formed when the fields of its word are. -/
def Instr.wellFormed (i : Instr) : Bool := i.fields.wellFormed

/-- The kind of a command (R15, R92): a long command sets `BUSY` and completes in a later engine step. -/
def Instr.isLong : Instr → Bool
  | .nop | .dispose | .clrerr => false
  | .configure | .resetw | .estimate | .residual _ | .adapt | .process _ => true

/-- The fields of a word: `OPC` = [7:0], `REF` = [8], `RSV` = [31:9] (R90). -/
def fieldsOfWord (c : Word) : CmdFields :=
  { opc := c.extractLsb' 0 8, ref := c.getLsbD 8, rsv := c.extractLsb' 9 23 }

/-- The word with the given fields (R90). -/
def wordOfFields (f : CmdFields) : Word := f.rsv ++ BitVec.ofBool f.ref ++ f.opc

/-- The command a legal operation code names (R92); `none` for a reserved code. -/
def commandOf (opc : BitVec 8) (ref : Bool) : Option Instr :=
  match opc.toNat with
  | 0 => some .nop
  | 1 => some .configure
  | 2 => some .dispose
  | 3 => some .resetw
  | 4 => some .estimate
  | 5 => some (.residual ref)
  | 6 => some .adapt
  | 7 => some (.process ref)
  | 8 => some .clrerr
  | _ => none

/-- `Decode(c)` of R95: a command, or the name of what is illegal about the word. -/
def decode (c : Word) : Except Illegal Instr :=
  let f := fieldsOfWord c
  match f.illegal? with
  | some why => .error why
  | none =>
    match commandOf f.opc f.ref with
    | some i => .ok i
    | none => .error .reservedOpc

/-- The command word of a command (R92). -/
def encode (i : Instr) : Word := wordOfFields i.fields

/-- The decoder on a word numbered as spec/opcode_table.json numbers it. A command is one 32-bit word, delivered whole
(R80, R90), so the `nbits` low bits of `w` are the word and every bit above them is 0. -/
def decodeTableWord (nbits w : Nat) : Option Instr :=
  match decode (BitVec.ofNat 32 (w % 2 ^ nbits)) with
  | .ok i => some i
  | .error _ => none

/-! ### Every constructor's decoding, shown by a word written out from R92's table. -/

theorem decode_nop : decode 0x00000000#32 = .ok .nop := by decide
theorem decode_configure : decode 0x00000001#32 = .ok .configure := by decide
theorem decode_dispose : decode 0x00000002#32 = .ok .dispose := by decide
theorem decode_resetw : decode 0x00000003#32 = .ok .resetw := by decide
theorem decode_estimate : decode 0x00000004#32 = .ok .estimate := by decide
theorem decode_residual_x : decode 0x00000005#32 = .ok (.residual false) := by decide
theorem decode_residual_d : decode 0x00000105#32 = .ok (.residual true) := by decide
theorem decode_adapt : decode 0x00000006#32 = .ok .adapt := by decide
theorem decode_process_x : decode 0x00000007#32 = .ok (.process false) := by decide
theorem decode_process_d : decode 0x00000107#32 = .ok (.process true) := by decide
theorem decode_clrerr : decode 0x00000008#32 = .ok .clrerr := by decide

end Sys2Proof
end

