-- ==== Sys2Proof/Machine/State.lean ====
section
/-! DEFINITION. The state of one AFE as plain data (spec/10_state.md R20), its value after reset (R48), and the reasons a
step can stop. -/

namespace Sys2Proof.Machine

/-- `STATUS.STATE` (R30, R31); the code 3 never occurs (93 U7). -/
inductive EngState where
  | unconfigured
  | ready
  | fault
  deriving DecidableEq, Repr

/-- `CAUSE` (R35, R186); the codes 5 to 7 never occur (93 U7). -/
inductive Cause where
  | none
  | config
  | numeric
  | sequence
  | illegal
  deriving DecidableEq, Repr

/-- `SEQR.PHASE` (R44). -/
inductive Phase where
  | idle
  | fill
  | est
  | res
  | adp
  deriving DecidableEq, Repr

/-- The sequencer state `SEQR` = (`PHASE`, `n`, `k`) (R44). -/
structure Seqr where
  phase : Phase
  n : BitVec 14
  k : BitVec 14
  deriving DecidableEq, Repr

/-- One entry of the total order of R77: a host operation (R60), the moment at which the engine takes its complete step
(R45, 93 U9), or the environment's reset (R215). The model's own type (DESIGN CHOICE, log 1). -/
inductive Event where
  | read (a : Offset)
  | write (a : Offset) (v : Word)
  | engine
  | reset
  deriving DecidableEq, Repr

/-- An answer of the host port (R60): a read's `OK(v)`, a write's `OK`, or the error response `ERR`. -/
inductive Response where
  | value (v : Word)
  | done
  | err
  deriving DecidableEq, Repr

/-- A buffer: its elements by index, sparse, in the canonical form of `bufWf` (DESIGN CHOICE, log 12). -/
abbrev Buf (α : Type) := List (Nat × α)

/-- A step stops with a fault. -/
inductive Fault where
  /-- Raised by `engineStep` when `BUSY` = 1 and `PEND` holds no long command. R43 and R130 rule such a state out and no
  step leads into one, so the spec gives it no behaviour. Safe: the model stops where no machine is (log 11). -/
  | pendNotLong
  deriving DecidableEq, Repr

/-- No meaning for an instruction. -/
inductive Refusal where
  /-- Raised by `exec` alone, for an instruction without a meaning. Safe. No arm of `exec` answers it: all nine have one. -/
  | notModelled (mnemonic : String)
  deriving DecidableEq, Repr

/-- The complete state of one AFE (R20), with the model's own bookkeeping in the last three fields. -/
structure State where
  /-- `CAP_N` = NMAX (R25): a constant of the implementation, written by no step (log 3). -/
  capN : Word
  /-- `CAP_L` = LMAX (R25): a constant of the implementation, written by no step (log 3). -/
  capL : Word
  /-- `CAP_FMT[7:0]`, the code of NUM (R7, R25): a constant of the implementation, written by no step (log 4). -/
  capFmt : BitVec 8
  /-- `CFG_N` (R26). -/
  cfgN : Word
  /-- `CFG_L` (R27). -/
  cfgL : Word
  /-- `CFG_MU_LO` (R28). -/
  cfgMuLo : Word
  /-- `CFG_MU_HI` (R28). -/
  cfgMuHi : Word
  /-- `STATUS.STATE` (R31). -/
  st : EngState
  /-- `STATUS.BUSY` (R32). -/
  busy : Bool
  /-- `STATUS.ERR` (R34). -/
  err : Bool
  /-- `STATUS.Y_FRESH` (R33). -/
  yFresh : Bool
  /-- `STATUS.E_FRESH` (R33). -/
  eFresh : Bool
  /-- `STATUS.E_REF` (R30). -/
  eRef : Bool
  /-- `CAUSE` (R35). -/
  cause : Cause
  /-- `EINFO` (R36). -/
  einfo : Word
  /-- `SEQ` (R37). -/
  seq : BitVec 64
  /-- `IRQ_EN[1:0]` (R38). -/
  irqEn : BitVec 2
  /-- `IRQ_PEND[1:0]`: bit 0 `DONE`, bit 1 `ERROR` (R38). -/
  irqPend : BitVec 2
  /-- `XBUF` (R39). -/
  xbuf : Buf Sample
  /-- `DBUF` (R39). -/
  dbuf : Buf Sample
  /-- `OBUF` (R39). -/
  obuf : Buf Sample
  /-- `WMEM`, the FilterState (R40). -/
  wmem : Buf NumCode
  /-- `YBUF` (R40). -/
  ybuf : Buf NumCode
  /-- `EBUF` (R40). -/
  ebuf : Buf NumCode
  /-- `TDL` (R41). -/
  tdl : Buf Sample
  /-- `ACC` (R42). -/
  acc : NumCode
  /-- `G` (R42). -/
  g : NumCode
  /-- `PEND` (R43). -/
  pend : Word
  /-- `SEQR` (R44). -/
  seqr : Seqr
  /-- The model's own: the number of the next draw of free values (log 8). -/
  freeCount : Nat
  /-- The model's own: what the host, the schedule and the environment do next, first first (log 1). -/
  inputs : List Event
  /-- The model's own: the answers the port has given, newest first (log 2). -/
  resps : List Response
  deriving DecidableEq, Repr

/-- The machine after reset (R48). `PEND`, `ACC`, `G`, `SEQR.n`, `SEQR.k` and the buffers are unspecified there: DESIGN
CHOICE zero (log 5 and 6). -/
def State.reset : State where
  capN := Config.defaultNmax
  capL := Config.defaultLmax
  capFmt := Config.defaultFmt
  cfgN := 0#32
  cfgL := 0#32
  cfgMuLo := 0#32
  cfgMuHi := 0#32
  st := .unconfigured
  busy := false
  err := false
  yFresh := false
  eFresh := false
  eRef := false
  cause := .none
  einfo := 0#32
  seq := 0#64
  irqEn := 0#2
  irqPend := 0#2
  xbuf := []
  dbuf := []
  obuf := []
  wmem := []
  ybuf := []
  ebuf := []
  tdl := []
  acc := 0#64
  g := 0#64
  pend := 0#32
  seqr := { phase := .idle, n := 0#14, k := 0#14 }
  freeCount := 0
  inputs := []
  resps := []

end Sys2Proof.Machine
end

