-- ==== Sys2Proof/Machine/Numerics.lean ====
section
/-! DEFINITION. The numeric primitives (spec/40_numerics.md): the NUM interface (R110), its default instance IEEE 754
binary64 (R111 to R121) and the exact instance over the rationals (R125). -/

namespace Sys2Proof.Machine

/-- The NUM interface (R110). -/
structure NumOps (α : Type) where
  zero : α
  cvt : Sample → α
  add : α → α → α
  sub : α → α → α
  mul : α → α → α
  finite : α → Bool
  neg0 : α → Bool
  q16 : α → Sample
  enc : α → Double
  dec : Double → α
  deriving Inhabited

/-! ### binary64: classes and values (R111) -/

/-- The sign bit `S` = [63]. -/
def b64Sign (a : Double) : Bool := a.getLsbD 63

/-- The biased exponent `E` = [62:52]. -/
def b64Exp (a : Double) : Nat := (a.extractLsb' 52 11).toNat

/-- The fraction `F` = [51:0]. -/
def b64Frac (a : Double) : Nat := (a.extractLsb' 0 52).toNat

/-- `finite(a)`: `E` is not 2047 (R115). -/
def b64Finite (a : Double) : Bool := b64Exp a != 2047

/-- A NaN: `E` = 2047, `F` not 0. -/
def b64IsNaN (a : Double) : Bool := b64Exp a == 2047 && b64Frac a != 0

/-- An infinity: `E` = 2047, `F` = 0. -/
def b64IsInf (a : Double) : Bool := b64Exp a == 2047 && b64Frac a == 0

/-- A zero of either sign: `E` = 0, `F` = 0. -/
def b64IsZero (a : Double) : Bool := b64Exp a == 0 && b64Frac a == 0

/-- The magnitude of a finite value in units of 2^−1074: `F` for a zero or a subnormal, (2^52 + `F`) · 2^(`E`−1) for a
normal. Every finite binary64 value is an integer number of these units. -/
def b64Mag (a : Double) : Nat :=
  if b64Exp a = 0 then b64Frac a else (2 ^ 52 + b64Frac a) * 2 ^ (b64Exp a - 1)

/-- The value of a finite number in units of 2^−1074. -/
def b64Int (a : Double) : Int := if b64Sign a then -(b64Mag a : Int) else (b64Mag a : Int)

/-- The infinity of the given sign. -/
def b64Inf (sign : Bool) : Double := if sign then 0xFFF0000000000000#64 else 0x7FF0000000000000#64

/-- The zero of the given sign. -/
def b64Zero (sign : Bool) : Double := if sign then 0x8000000000000000#64 else 0x0000000000000000#64

/-- −b: the sign bit flipped (R113). -/
def b64Neg (a : Double) : Double := a ^^^ 0x8000000000000000#64

/-! ### Rounding (R113, R116, R117) -/

/-- `k` / 2^`sh` rounded to the nearest integer, ties to the even one. -/
def roundHalfEven (k sh : Nat) : Nat :=
  let q := k / 2 ^ sh
  let r := k % 2 ^ sh
  if 2 * r < 2 ^ sh then q else if 2 ^ sh < 2 * r then q + 1 else q + q % 2

/-- The binary64 number nearest to the magnitude `k` · 2^−(1074+`j`), ties to even, with the given sign. `q` is the
exponent of the last place in units of 2^−1074 (0 for a subnormal result: gradual underflow, R117). With `r` the rounded
significand the bits below the sign are `q` · 2^52 + `r`, also when `r` carries into the next binade. A result past the
largest finite value becomes the infinity. -/
def b64Round (sign : Bool) (k j : Nat) : Double :=
  let q := Nat.log2 k - j - 52
  let r := roundHalfEven k (j + q)
  let body := if 2047 * 2 ^ 52 ≤ q * 2 ^ 52 + r then 2047 * 2 ^ 52 else q * 2 ^ 52 + r
  BitVec.ofNat 64 (if sign then 2 ^ 63 + body else body)

/-- The NaN whose sign and fraction are those of `x`, a zero fraction replaced by 1: `E` = 2047 and `F` not 0 whatever
`x` is, and every NaN is some `nanOf x` (R118). -/
def nanOf (x : Double) : Double :=
  let y := x ||| 0x7FF0000000000000#64
  if y.extractLsb' 0 52 = 0#52 then y ||| 1#64 else y

/-! ### binary64: the operations. `nan` is the pattern a produced NaN has: a free value (R118, U3). -/

/-- `add(a, b)` (R113); a sum of zeros, and an exact cancellation, is +0 unless both operands are negative (R119). -/
def b64Add (nan a b : Double) : Double :=
  if b64IsNaN a || b64IsNaN b then nan
  else if b64IsInf a then (if b64IsInf b && (b64Sign a != b64Sign b) then nan else a)
  else if b64IsInf b then b
  else
    let z := b64Int a + b64Int b
    if z = 0 then b64Zero (b64Sign a && b64Sign b) else b64Round (decide (z < 0)) z.natAbs 0

/-- `sub(a, b)` = `add(a, −b)` (R113). -/
def b64Sub (nan a b : Double) : Double := b64Add nan a (b64Neg b)

/-- `mul(a, b)` (R114). -/
def b64Mul (nan a b : Double) : Double :=
  let sign := b64Sign a != b64Sign b
  if b64IsNaN a || b64IsNaN b then nan
  else if b64IsInf a || b64IsInf b then (if b64IsZero a || b64IsZero b then nan else b64Inf sign)
  else b64Round sign (b64Mag a * b64Mag b) 1074

/-- `cvt(s)` (R112): exact. -/
def b64Cvt (s : Sample) : Double := b64Round (decide (s.toInt < 0)) (s.toInt.natAbs * 2 ^ 1074) 0

/-- `neg0(a)`: not a NaN, not a zero of either sign, and sign bit 1 (R115). -/
def b64Neg0 (a : Double) : Bool := !b64IsNaN a && !b64IsZero a && b64Sign a

/-- An integer saturated to [−32768, 32767] (R120). -/
def saturate16 (r : Int) : Sample :=
  BitVec.ofInt 16 (if r < -32768 then -32768 else if 32767 < r then 32767 else r)

/-- `q16(a)` (R120): the nearest integer, ties to even, saturated; used on finite `a` only. -/
def b64Q16 (a : Double) : Sample :=
  let m := roundHalfEven (b64Mag a) 1074
  saturate16 (if b64Sign a then -(m : Int) else (m : Int))

/-- The default instance of NUM (R111, R121), with the pattern of a produced NaN. -/
def binary64 (nan : Double) : NumOps Double where
  zero := 0x0000000000000000#64
  cvt := b64Cvt
  add := b64Add nan
  sub := b64Sub nan
  mul := b64Mul nan
  finite := b64Finite
  neg0 := b64Neg0
  q16 := b64Q16
  enc := fun a => a
  dec := fun a => a

/-! ### The exact instance (R125) -/

/-- The integer nearest to a rational, ties to the even one. -/
def ratRound (a : ℚ) : Int :=
  let f := a.floor
  if a - f < 1 / 2 then f else if 1 / 2 < a - f then f + 1 else f + f % 2

/-- The exact instance over the rationals (R125). Its `enc` and `dec` have a meaning on the patterns of finite values only;
on another pattern `dec` gives 0, and `enc` of a rational that is no binary64 value gives a neighbour. The rationals have
one zero and binary64 has two, so `enc (dec b) = b` (R110, R121) cannot hold for both patterns: here `dec` of the pattern of
−0 is 0 and `enc 0` is the pattern of +0. DESIGN CHOICE (log 15; safe: no step uses this instance and no statement speaks of
its `enc` and `dec`). -/
def exactNum : NumOps ℚ where
  zero := 0
  cvt := fun s => (s.toInt : ℚ)
  add := fun a b => a + b
  sub := fun a b => a - b
  mul := fun a b => a * b
  finite := fun _ => true
  neg0 := fun a => decide (a < 0)
  q16 := fun a => saturate16 (ratRound a)
  enc := fun a => b64Round (decide (a < 0)) (a.num.natAbs * 2 ^ 1074 / a.den) 0
  dec := fun b => if b64Finite b then (b64Int b : ℚ) / (2 : ℚ) ^ (1074 : Nat) else 0

/-! ### What every instance of NUM meets (R110, R120, R121) -/

/-- `q` is the quantised form of the real number `r` (R120): the nearest integer, the even one at half way, saturated. -/
def quantisedTo (r : ℝ) (q : Sample) : Prop :=
  ∃ n : ℤ, |r - n| ≤ 1 / 2 ∧ (|r - n| = 1 / 2 → n % 2 = 0) ∧ q = saturate16 n

/-- The laws of R110, R120 and R121 for an instance of NUM. The meanings R110 gives in words (the value zero, exact, less than
zero, non-zero) speak of the real value a finite number stands for: `value`. `dec` undoes `enc` on every value; the patterns an
instance accepts are those `enc` gives, so `enc` undoes `dec` on each of them (DEDUCED, log 17). -/
structure NumLaws {α : Type} (F : NumOps α) : Prop where
  zero_finite : F.finite F.zero = true
  cvt_finite : ∀ s, F.finite (F.cvt s) = true
  dec_enc : ∀ a, F.dec (F.enc a) = a
  value : ∃ val : α → ℝ, val F.zero = 0 ∧ (∀ s, val (F.cvt s) = s.toInt) ∧ ∀ a, F.finite a = true →
    (F.neg0 a = true ↔ val a < 0) ∧ quantisedTo (val a) (F.q16 a) ∧ (val a ≠ 0 → F.add a F.zero = a)

/-- A NUM of an implementation: its values, its functions, and the laws they meet (R7, R110). -/
structure NumFormat where
  carrier : Type
  ops : NumOps carrier
  laws : NumLaws ops

/-- A NUM over the codes of its values: the machine holds a value by its encoding, which loses nothing since `dec` undoes `enc`
(R121, log 4). Every member reads its operands by `dec` and gives its result by `enc`; a pattern written by a host becomes the
code of the value it decodes to. -/
def encoded {α : Type} (F : NumOps α) : NumOps NumCode where
  zero := F.enc F.zero
  cvt := fun s => F.enc (F.cvt s)
  add := fun a b => F.enc (F.add (F.dec a) (F.dec b))
  sub := fun a b => F.enc (F.sub (F.dec a) (F.dec b))
  mul := fun a b => F.enc (F.mul (F.dec a) (F.dec b))
  finite := fun a => F.finite (F.dec a)
  neg0 := fun a => F.neg0 (F.dec a)
  q16 := fun a => F.q16 (F.dec a)
  enc := fun a => F.enc (F.dec a)
  dec := fun b => F.enc (F.dec b)

/-- A small NUM, the saturating integers of 16 bits: what shows that there are formats beside binary64. No machine is said to
have it. -/
def integerNum : NumOps Sample where
  zero := 0#16
  cvt := fun s => s
  add := fun a b => saturate16 (a.toInt + b.toInt)
  sub := fun a b => saturate16 (a.toInt - b.toInt)
  mul := fun a b => saturate16 (a.toInt * b.toInt)
  finite := fun _ => true
  neg0 := fun a => decide (a.toInt < 0)
  q16 := fun a => a
  enc := fun a => a.setWidth 64
  dec := fun b => b.setWidth 16

/-- A sample saturates to itself. -/
theorem saturate16_toInt (s : Sample) : saturate16 s.toInt = s := by
  have h1 := BitVec.le_toInt s
  have h2 := BitVec.toInt_lt (x := s)
  unfold saturate16
  rw [if_neg (by omega), if_neg (by omega), BitVec.ofInt_toInt]

theorem integerNum_laws : NumLaws integerNum where
  zero_finite := rfl
  cvt_finite := fun _ => rfl
  dec_enc := fun a => by simp [integerNum]
  value := by
    refine ⟨fun s => s.toInt, by simp [integerNum], fun _ => rfl, fun a _ => ⟨by simp [integerNum], ?_, fun _ => ?_⟩⟩
    · exact ⟨a.toInt, by norm_num, by norm_num, (saturate16_toInt a).symm⟩
    · simpa [integerNum] using saturate16_toInt a

end Sys2Proof.Machine

namespace Sys2Proof

/-- The NUM of an implementation whose `CAP_FMT` code is `fmt`, for the codes that are reserved for formats other than
binary64 (R7, R25, R110, U8): an argument of the model. It has no body: a proof holds for every format that meets the laws
(DESIGN CHOICE, log 4; safe). The first argument only shows Lean that there is some format. -/
opaque Config.otherFormat [Inhabited Machine.NumFormat] (fmt : BitVec 8) : Machine.NumFormat

end Sys2Proof

namespace Sys2Proof.Machine

/-- The format of an implementation whose `CAP_FMT` code is not 1 (U8). -/
def otherFormat (fmt : BitVec 8) : NumFormat := @Config.otherFormat ⟨⟨Sample, integerNum, integerNum_laws⟩⟩ fmt

/-- Its NUM, over the codes of its values. -/
def otherNum (fmt : BitVec 8) : NumOps NumCode := encoded (otherFormat fmt).ops

/-! ### The NUM of an implementation (R7, R25, U8) -/

/-- A member of the NUM an implementation has: of binary64 when its code is 1, else of the other instance. -/
def byFormat {β : Type} (fmt : BitVec 8) (default other : β) : β := if fmt = Config.defaultFmt then default else other

/-- The NUM of an implementation whose `CAP_FMT` code is `fmt` (R7, R25, R110). `nan` is the pattern of a NaN that binary64
produces (R118); it enters `add`, `sub` and `mul` alone. -/
def numOf (fmt : BitVec 8) (nan : Double) : NumOps NumCode where
  zero := byFormat fmt (binary64 nan).zero (otherNum fmt).zero
  cvt := byFormat fmt (binary64 nan).cvt (otherNum fmt).cvt
  add := byFormat fmt (binary64 nan).add (otherNum fmt).add
  sub := byFormat fmt (binary64 nan).sub (otherNum fmt).sub
  mul := byFormat fmt (binary64 nan).mul (otherNum fmt).mul
  finite := byFormat fmt (binary64 nan).finite (otherNum fmt).finite
  neg0 := byFormat fmt (binary64 nan).neg0 (otherNum fmt).neg0
  q16 := byFormat fmt (binary64 nan).q16 (otherNum fmt).q16
  enc := byFormat fmt (binary64 nan).enc (otherNum fmt).enc
  dec := byFormat fmt (binary64 nan).dec (otherNum fmt).dec

end Sys2Proof.Machine
end

