-- ==== Sys2Proof/Machine/Ops.lean ====
section
/-! DEFINITION. The named operations over buffers and registers, the error-recording sequence (spec/60_exceptions.md R189)
and the two phases of a long command: acceptance (spec/41_lifecycle.md R130) and completion (spec/10_state.md R45). -/

namespace Sys2Proof.Machine

/-! ### Buffers. `z` is what an unlisted element reads as: 0 for a sample, `ZERO` for a NUM value. -/

/-- Element `i`. -/
def bufGet {α : Type} (z : α) : Buf α → Nat → α
  | [], _ => z
  | (j, v) :: t, i => if i = j then v else bufGet z t i

/-- The entry (`i`, `v`) put in its place by index. -/
def bufInsert {α : Type} (i : Nat) (v : α) : Buf α → Buf α
  | [] => [(i, v)]
  | (j, u) :: t => if i < j then (i, v) :: (j, u) :: t else (j, u) :: bufInsert i v t

/-- Element `i` becomes `v`; writing `z` takes the entry away, so that equal contents are equal lists. -/
def bufSet {α : Type} [DecidableEq α] (z : α) (b : Buf α) (i : Nat) (v : α) : Buf α :=
  let others := b.filter fun c => decide (c.1 ≠ i)
  if v = z then others else bufInsert i v others

/-- Elements 0 to `n`−1 become `z` (the zero fills of R132, R134, R147, R165). -/
def bufClear {α : Type} (n : Nat) (b : Buf α) : Buf α := b.filter fun c => decide (n ≤ c.1)

/-- The buffer whose elements 0 to `n`−1 are those of `f`. -/
def bufOf {α : Type} [DecidableEq α] (z : α) (n : Nat) (f : Nat → α) : Buf α :=
  (List.range n).filterMap fun i => if f i = z then none else some (i, f i)

/-- The canonical form: indexes strictly rising and below `bound`, no entry equal to what an unlisted element reads as. -/
def bufWf {α : Type} [DecidableEq α] (z : α) (bound : Nat) (b : Buf α) : Bool :=
  decide (b.Pairwise fun c d => c.1 < d.1) && b.all fun c => decide (c.1 < bound) && decide (c.2 ≠ z)

/-! ### Names for what the commands read -/

/-- NMAX (R7, R25). -/
def State.nmax (s : State) : Nat := s.capN.toNat

/-- LMAX (R7, R25). -/
def State.lmax (s : State) : Nat := s.capL.toNat

/-- N (R26). -/
def State.lenN (s : State) : Nat := s.cfgN.toNat

/-- L (R27). -/
def State.lenL (s : State) : Nat := s.cfgL.toNat

/-- The NUM of this implementation (R7, R25), for the members no NaN pattern enters: `ZERO`, `cvt`, `finite`, `neg0`,
`q16`, `enc`, `dec`. -/
def State.format (s : State) : NumOps NumCode := numOf s.capFmt 0#64

/-- `ZERO` (R110): what an unlisted NUM element reads as. -/
def State.zero (s : State) : NumCode := s.format.zero

/-- `MU` = dec({`CFG_MU_HI`, `CFG_MU_LO`}) (R28, R99). -/
def State.mu (s : State) : NumCode := s.format.dec (s.cfgMuHi ++ s.cfgMuLo)

/-- `XBUF[i]` (R39). -/
def State.xAt (s : State) (i : Nat) : Sample := bufGet 0#16 s.xbuf i

/-- `DBUF[i]` (R39). -/
def State.dAt (s : State) (i : Nat) : Sample := bufGet 0#16 s.dbuf i

/-- `OBUF[i]` (R39). -/
def State.oAt (s : State) (i : Nat) : Sample := bufGet 0#16 s.obuf i

/-- `WMEM[i]` (R40). -/
def State.wAt (s : State) (i : Nat) : NumCode := bufGet s.zero s.wmem i

/-- `YBUF[i]` (R40). -/
def State.yAt (s : State) (i : Nat) : NumCode := bufGet s.zero s.ybuf i

/-- `EBUF[i]` (R40). -/
def State.eAt (s : State) (i : Nat) : NumCode := bufGet s.zero s.ebuf i

/-- `TDL[i]` (R41). -/
def State.tAt (s : State) (i : Nat) : Sample := bufGet 0#16 s.tdl i

/-- The source frame of the residual: `DBUF` when `REF` = 1, else `XBUF` (R93, R156). -/
def State.srcAt (s : State) (ref : Bool) (i : Nat) : Sample := if ref then s.dAt i else s.xAt i

/-- The seven buffers are in canonical form within the implemented depths (R39 to R41). -/
def Memory.wf (s : State) : Bool :=
  bufWf 0#16 s.nmax s.xbuf && bufWf 0#16 s.nmax s.dbuf && bufWf 0#16 s.nmax s.obuf && bufWf s.zero s.lmax s.wmem
    && bufWf s.zero s.nmax s.ybuf && bufWf s.zero s.nmax s.ebuf && bufWf 0#16 s.lmax s.tdl

/-! ### Free values -/

/-- The pattern of the next NaN the engine produces (R118, U3). -/
def State.freeNaN (s : State) : Double := nanOf (Config.freeValue .nanBits s.freeCount 0)

/-- `ACC`, `G`, `PEND`, `SEQR.n` and `SEQR.k` hold unspecified values (R42 to R44, U2): one draw of free values. A free NUM value
is what a free pattern decodes to. -/
def freeRegisters (s : State) : State :=
  { s with
    acc := s.format.dec (Config.freeValue .acc s.freeCount 0)
    g := s.format.dec (Config.freeValue .g s.freeCount 0)
    pend := (Config.freeValue .pend s.freeCount 0).setWidth 32
    seqr := { phase := .idle
              n := (Config.freeValue .seqN s.freeCount 0).setWidth 14
              k := (Config.freeValue .seqK s.freeCount 0).setWidth 14 }
    freeCount := s.freeCount + 1 }

/-- The buffers hold unspecified contents (R133, R215, R217, U1, U10): one draw of free values. -/
def freeBuffers (s : State) : State :=
  { s with
    xbuf := bufOf 0#16 s.nmax fun i => (Config.freeValue .xbuf s.freeCount i).setWidth 16
    dbuf := bufOf 0#16 s.nmax fun i => (Config.freeValue .dbuf s.freeCount i).setWidth 16
    obuf := bufOf 0#16 s.nmax fun i => (Config.freeValue .obuf s.freeCount i).setWidth 16
    wmem := bufOf s.zero s.lmax fun i => s.format.dec (Config.freeValue .wmem s.freeCount i)
    ybuf := bufOf s.zero s.nmax fun i => s.format.dec (Config.freeValue .ybuf s.freeCount i)
    ebuf := bufOf s.zero s.nmax fun i => s.format.dec (Config.freeValue .ebuf s.freeCount i)
    tdl := bufOf 0#16 s.lmax fun i => (Config.freeValue .tdl s.freeCount i).setWidth 16
    freeCount := s.freeCount + 1 }

/-! ### Errors: what the AFE has in the place of exceptions (R189, R195) -/

/-- `if STATUS.ERR = 0: ERR <- 1; CAUSE <- code; EINFO <- info`: the first error is kept (R189). -/
def recordError (c : Cause) (info : Word) (s : State) : State :=
  if s.err then s else { s with err := true, cause := c, einfo := info }

/-- `raise <CAUSE>(info)` (R189): the record, `IRQ_PEND.ERROR`, and for NUMERIC the halt. -/
def raiseError (c : Cause) (info : Word) (s : State) : State :=
  let s1 := recordError c info s
  let s2 := { s1 with irqPend := s1.irqPend ||| 0b10#2 }
  match c with
  | .numeric => { s2 with st := .fault, yFresh := false, eFresh := false }
  | .none | .config | .sequence | .illegal => s2

/-- The record cleared: the counterpart of a return (R135, R196). -/
def clearError (s : State) : State := { s with err := false, cause := .none, einfo := 0#32 }

/-! ### The two phases of a long command -/

/-- `PEND <- c; STATUS.BUSY <- 1` (R130). -/
def acceptCommand (c : Word) (s : State) : State := { s with pend := c, busy := true }

/-- The end of the complete step (R45): `BUSY <- 0`, `IRQ_PEND.DONE <- 1`, `SEQR.PHASE <- IDLE`, and the registers that are
unspecified between commands (R42 to R44). -/
def completeCommand (s : State) : State :=
  freeRegisters { s with busy := false, irqPend := s.irqPend ||| 0b01#2 }

/-! ### The environment -/

/-- The reset event (R215): every register at its value of R48; the command in flight abandoned; the buffers and the hidden
registers unspecified (R217, U2, U10). The implementation's depths and NUM, the events to come and the answers given stay. -/
def resetMachine (s : State) : State :=
  freeRegisters (freeBuffers
    { State.reset with
      capN := s.capN, capL := s.capL, capFmt := s.capFmt, freeCount := s.freeCount, inputs := s.inputs, resps := s.resps })

/-- The port answers (R60). -/
def respond (r : Response) (s : State) : State := { s with resps := r :: s.resps }

end Sys2Proof.Machine
end

