-- ==== Sys2Proof/Machine/Operands.lean ====
section
/-! DEFINITION. The operand forms: extension functions (spec/00_scope.md R10), the decode of a port offset (spec/20_memory.md
R62, R63, R68, R69) and the halves of a 64-bit quantity (R69, R74, R75). -/

namespace Sys2Proof.Machine

/-- `sext_32(s)` (R10). -/
def sext32 (s : Sample) : Word := s.signExtend 32

/-- `as_i16(w)` (R10). -/
def asI16 (w : Word) : Sample := w.setWidth 16

/-- `is_sext16(w)` (R10). -/
def isSext16 (w : Word) : Bool := decide (w = sext32 (asI16 w))

/-- The regions of the window (R62). -/
inductive Region where
  | csr
  | xbuf
  | dbuf
  | wmem
  | ybuf
  | ebuf
  | obuf
  | tdl
  | reserved
  deriving DecidableEq, Repr

/-- The region `a[19:16]` selects (R62). -/
def regionOf (a : Offset) : Region :=
  match (a.extractLsb' 16 4).toNat with
  | 0x0 => .csr
  | 0x1 => .xbuf
  | 0x2 => .dbuf
  | 0x3 => .wmem
  | 0x4 => .ybuf
  | 0x5 => .ebuf
  | 0x6 => .obuf
  | 0x7 => .tdl
  | _ => .reserved

/-- The sixteen registers of R22. -/
inductive Csr where
  | id
  | capN
  | capL
  | capFmt
  | cfgN
  | cfgL
  | cfgMuLo
  | cfgMuHi
  | cmd
  | status
  | cause
  | einfo
  | seqLo
  | seqHi
  | irqEn
  | irqPend
  deriving DecidableEq, Repr

/-- The register at the offset `a[15:0]` of region 0 (R22, R63). -/
def csrOf (a : Offset) : Option Csr :=
  match (a.extractLsb' 0 16).toNat with
  | 0x000 => some .id
  | 0x004 => some .capN
  | 0x008 => some .capL
  | 0x00C => some .capFmt
  | 0x010 => some .cfgN
  | 0x014 => some .cfgL
  | 0x018 => some .cfgMuLo
  | 0x01C => some .cfgMuHi
  | 0x020 => some .cmd
  | 0x024 => some .status
  | 0x028 => some .cause
  | 0x02C => some .einfo
  | 0x030 => some .seqLo
  | 0x034 => some .seqHi
  | 0x038 => some .irqEn
  | 0x03C => some .irqPend
  | _ => none

/-- The access class RO (R22, R64). -/
def Csr.readOnly : Csr → Bool
  | .id | .capN | .capL | .capFmt | .status | .cause | .einfo | .seqLo | .seqHi => true
  | .cfgN | .cfgL | .cfgMuLo | .cfgMuHi | .cmd | .irqEn | .irqPend => false

/-- The configuration registers, which R67 locks. -/
def Csr.isConfig : Csr → Bool
  | .cfgN | .cfgL | .cfgMuLo | .cfgMuHi => true
  | .id | .capN | .capL | .capFmt | .cmd | .status | .cause | .einfo | .seqLo | .seqHi | .irqEn | .irqPend => false

/-- The offset of `CMD` (R22, R29). -/
def cmdOffset : Offset := 0x00020#20

/-- `a[1:0]` is 0 (R61). -/
def aligned (a : Offset) : Bool := decide (a.extractLsb' 0 2 = 0#2)

/-- The element index of a 16-bit region: `a[15:2]` (R68). -/
def sampleIndex (a : Offset) : Nat := (a.extractLsb' 2 14).toNat

/-- The element index of a NUM region: `a[15:3]` (R69). -/
def numIndex (a : Offset) : Nat := (a.extractLsb' 3 13).toNat

/-- The half `h` = `a[2]` of a NUM element (R69). -/
def halfSelect (a : Offset) : Bool := a.getLsbD 2

/-- The half `h` of a 64-bit quantity: the less significant word at the lower address (R69, R75). -/
def halfOf (h : Bool) (e : BitVec 64) : Word := if h then e.extractLsb' 32 32 else e.extractLsb' 0 32

/-- A 64-bit quantity with its half `h` replaced (R74). -/
def withHalf (h : Bool) (e : BitVec 64) (v : Word) : BitVec 64 :=
  if h then v ++ e.extractLsb' 0 32 else e.extractLsb' 32 32 ++ v

/-- The index bound of a region (R70). -/
def regionIndexOk (r : Region) (a : Offset) (s : State) : Bool :=
  match r with
  | .xbuf | .dbuf | .obuf => decide (sampleIndex a < s.nmax)
  | .tdl => decide (sampleIndex a < s.lmax)
  | .ybuf | .ebuf => decide (numIndex a < s.nmax)
  | .wmem => decide (numIndex a < s.lmax)
  | .csr | .reserved => true

/-- The regions a host may only read (R71). -/
def Region.readOnly : Region → Bool
  | .ybuf | .ebuf | .obuf | .tdl => true
  | .csr | .xbuf | .dbuf | .wmem | .reserved => false

end Sys2Proof.Machine
end

