-- ==== Sys2Proof/Machine/Flags.lean ====
section
/-! DEFINITION. The flags and codes: `STATUS` (spec/10_state.md R30), `CAUSE` (R35), `EINFO` (R36), the interrupt line
(spec/60_exceptions.md R200), the permitted states (spec/41_lifecycle.md R136) and the configuration check (R132). -/

namespace Sys2Proof.Machine

/-- The code of `STATUS.STATE` (R30). -/
def EngState.code : EngState → BitVec 2
  | .unconfigured => 0#2
  | .ready => 1#2
  | .fault => 2#2

/-- The code of `CAUSE[2:0]` (R35, R186). -/
def Cause.code : Cause → BitVec 3
  | .none => 0#3
  | .config => 1#3
  | .numeric => 2#3
  | .sequence => 3#3
  | .illegal => 4#3

/-- The word `STATUS` reads as (R30): reserved bits [31:9] and [3:2] are 0. -/
def statusWord (s : State) : Word :=
  (0#23 ++ BitVec.ofBool s.eRef ++ BitVec.ofBool s.eFresh ++ BitVec.ofBool s.yFresh ++ BitVec.ofBool s.err
    ++ BitVec.ofBool s.busy ++ 0#2 ++ s.st.code : BitVec 32)

/-- The word `CAUSE` reads as (R35). -/
def causeWord (c : Cause) : Word := (0#29 ++ c.code : BitVec 32)

/-- `EINFO` of a NUMERIC error (R36): stage [1:0], n [15:2], k [29:16]. -/
def numericInfo (stage : BitVec 2) (n k : Nat) : Word :=
  (0#2 ++ BitVec.ofNat 14 k ++ BitVec.ofNat 14 n ++ stage : BitVec 32)

/-- The interrupt output (R200). -/
def State.irq (s : State) : Bool := decide (s.irqPend &&& s.irqEn ≠ 0#2)

/-- The mask of failed checks of CONFIGURE (R132, R36), on N = `CFG_N`, L = `CFG_L`, μ. -/
def configMask (s : State) : Word :=
  let f := s.format.finite s.mu
  (0#26 ++ BitVec.ofBool (f && s.format.neg0 s.mu) ++ BitVec.ofBool (!f)
    ++ BitVec.ofBool (decide (s.capL < s.cfgL)) ++ BitVec.ofBool (decide (s.cfgL = 0#32))
    ++ BitVec.ofBool (decide (s.capN < s.cfgN)) ++ BitVec.ofBool (decide (s.cfgN = 0#32)) : BitVec 32)

/-- The permitted states and freshness preconditions (R136). -/
def permitted (i : Instr) (s : State) : Bool :=
  match i with
  | .nop | .clrerr => true
  | .configure => decide (s.st = .unconfigured)
  | .dispose | .resetw => decide (s.st ≠ .unconfigured)
  | .estimate | .process _ => decide (s.st = .ready)
  | .residual _ => decide (s.st = .ready) && s.yFresh
  | .adapt => decide (s.st = .ready) && s.eFresh

/-- Both fresh flags cleared (R33). -/
def clearFresh (s : State) : State := { s with yFresh := false, eFresh := false }

end Sys2Proof.Machine
end

