-- ==== Sys2Proof/Machine/Datapath.lean ====
section
/-! DEFINITION. The MAC array, the delay line and the sequencer's passes over any NUM instance: the loops of ESTIMATE
(spec/42_estimate.md R146, R147), RESIDUAL (spec/43_residual.md R156) and ADAPT (spec/44_adapt.md R165). -/

namespace Sys2Proof.Machine

/-- What a pass may change: the delay line, the working registers, the buffers it writes and the sequencer. -/
structure Datapath (α : Type) where
  tdl : Buf Sample
  acc : α
  g : α
  wmem : Buf α
  ybuf : Buf α
  ebuf : Buf α
  obuf : Buf Sample
  seqr : Seqr

/-- Where a non-finite value was written: sample `n`, tap `k` (R188). -/
structure Anomaly where
  n : Nat
  k : Nat
  deriving DecidableEq, Repr

/-- `for i in i..i+c−1: f i`, ended by the first anomaly. -/
def loopUntil {σ : Type} (f : Nat → σ → σ × Option Anomaly) : Nat → Nat → σ → σ × Option Anomaly
  | _, 0, d => (d, none)
  | i, c + 1, d =>
    match f i d with
    | (d', some e) => (d', some e)
    | (d', none) => loopUntil f (i + 1) c d'

/-- The state of the sequencer `PHASE`, `n`, `k` (R44, R179). -/
def seqrAt (p : Phase) (n k : Nat) : Seqr := { phase := p, n := BitVec.ofNat 14 n, k := BitVec.ofNat 14 k }

/-- `for k in m downto 1: TDL[k] <- TDL[k-1]` (R146). -/
def shiftTaps : Nat → Buf Sample → Buf Sample
  | 0, t => t
  | k + 1, t => shiftTaps k (bufSet 0#16 t (k + 1) (bufGet 0#16 t k))

/-- `Shift(s)` over `L` taps (R146). -/
def shiftIn (L : Nat) (s : Sample) (t : Buf Sample) : Buf Sample := bufSet 0#16 (shiftTaps (L - 1) t) 0 s

/-- A pass starts with `TDL[k] <- 0` for 0 ≤ k < L (R146). -/
def startPass {α : Type} (p : Phase) (L : Nat) (d : Datapath α) : Datapath α :=
  { d with tdl := bufClear L d.tdl, seqr := seqrAt p 0 0 }

/-! ### ESTIMATE (R147) -/

/-- `ACC <- add(ACC, mul(WMEM[k], cvt(TDL[k])))`. -/
def estTap {α : Type} (F : NumOps α) (n : Nat) (d : Datapath α) (k : Nat) : Datapath α :=
  { d with
    acc := F.add d.acc (F.mul (bufGet F.zero d.wmem k) (F.cvt (bufGet 0#16 d.tdl k)))
    seqr := seqrAt .est n (k + 1) }

/-- The body of the loop over n. -/
def estSample {α : Type} [DecidableEq α] (F : NumOps α) (L : Nat) (x : Nat → Sample) (n : Nat) (d : Datapath α) :
    Datapath α × Option Anomaly :=
  let d1 := { d with tdl := shiftIn L (x n) d.tdl, acc := F.zero }
  let d2 := (List.range L).foldl (estTap F n) d1
  let d3 := { d2 with ybuf := bufSet F.zero d2.ybuf n d2.acc, seqr := seqrAt .est (n + 1) 0 }
  if F.finite d2.acc then (d3, none) else (d3, some { n := n, k := 0 })

/-- The estimate pass over a frame of `N` samples `x` with `L` taps. -/
def estPass {α : Type} [DecidableEq α] (F : NumOps α) (N L : Nat) (x : Nat → Sample) (d : Datapath α) :
    Datapath α × Option Anomaly :=
  loopUntil (estSample F L x) 0 N (startPass .est L d)

/-! ### RESIDUAL (R156) -/

/-- The body of the loop over n: `src` is the source frame that `REF` selects. -/
def resSample {α : Type} [DecidableEq α] (F : NumOps α) (src : Nat → Sample) (n : Nat) (d : Datapath α) :
    Datapath α × Option Anomaly :=
  let v := F.sub (F.cvt (src n)) (bufGet F.zero d.ybuf n)
  let d1 := { d with ebuf := bufSet F.zero d.ebuf n v }
  if F.finite v then ({ d1 with obuf := bufSet 0#16 d1.obuf n (F.q16 v), seqr := seqrAt .res (n + 1) 0 }, none)
  else (d1, some { n := n, k := 0 })

/-- The residual step over a frame of `N` samples. -/
def resPass {α : Type} [DecidableEq α] (F : NumOps α) (N : Nat) (src : Nat → Sample) (d : Datapath α) :
    Datapath α × Option Anomaly :=
  loopUntil (resSample F src) 0 N { d with seqr := seqrAt .res 0 0 }

/-! ### ADAPT (R165) -/

/-- `v = add(WMEM[k], mul(G, cvt(TDL[k]))); WMEM[k] <- v`, an anomaly when `v` is non-finite. -/
def adpTap {α : Type} [DecidableEq α] (F : NumOps α) (n k : Nat) (d : Datapath α) : Datapath α × Option Anomaly :=
  let v := F.add (bufGet F.zero d.wmem k) (F.mul d.g (F.cvt (bufGet 0#16 d.tdl k)))
  let d1 := { d with wmem := bufSet F.zero d.wmem k v, seqr := seqrAt .adp n (k + 1) }
  if F.finite v then (d1, none) else (d1, some { n := n, k := k })

/-- The body of the loop over n. -/
def adpSample {α : Type} [DecidableEq α] (F : NumOps α) (mu : α) (L : Nat) (x : Nat → Sample) (n : Nat)
    (d : Datapath α) : Datapath α × Option Anomaly :=
  let d1 := { d with tdl := shiftIn L (x n) d.tdl, g := F.mul mu (bufGet F.zero d.ebuf n) }
  match loopUntil (adpTap F n) 0 L d1 with
  | (d2, some e) => (d2, some e)
  | (d2, none) => ({ d2 with seqr := seqrAt .adp (n + 1) 0 }, none)

/-- The adapt pass over a frame of `N` samples `x` with `L` taps and learning rate `mu`. -/
def adpPass {α : Type} [DecidableEq α] (F : NumOps α) (mu : α) (N L : Nat) (x : Nat → Sample) (d : Datapath α) :
    Datapath α × Option Anomaly :=
  loopUntil (adpSample F mu L x) 0 N (startPass .adp L d)

/-! ### The passes on the state -/

/-- The part of the state a pass works on. -/
def State.datapath (s : State) : Datapath NumCode :=
  { tdl := s.tdl, acc := s.acc, g := s.g, wmem := s.wmem, ybuf := s.ybuf, ebuf := s.ebuf, obuf := s.obuf, seqr := s.seqr }

/-- The state after a pass; a pass is one draw of the NaN pattern (log 10). -/
def State.withDatapath (s : State) (d : Datapath NumCode) : State :=
  { s with
    tdl := d.tdl, acc := d.acc, g := d.g, wmem := d.wmem, ybuf := d.ybuf, ebuf := d.ebuf, obuf := d.obuf, seqr := d.seqr
    freeCount := s.freeCount + 1 }

/-- The NUM one pass from this state runs over: the implementation's (R7), with the next free NaN pattern (R118). -/
def State.num (s : State) : NumOps NumCode := numOf s.capFmt s.freeNaN

/-- A pass ended: `done` when no anomaly ended it, else `raise NUMERIC(stage, n, k)` (R188). The flag says whether the
command goes on. -/
def endPass (stage : BitVec 2) (done : State → State) (s : State) (r : Datapath NumCode × Option Anomaly) :
    State × Bool :=
  match r.2 with
  | none => (done (s.withDatapath r.1), true)
  | some e => (raiseError .numeric (numericInfo stage e.n e.k) (s.withDatapath r.1), false)

/-- `b` after `r`, unless `r` ended in an anomaly (R176). -/
def andThen (r : State × Bool) (b : State → State × Bool) : State × Bool := if r.2 then b r.1 else r

/-! ### Running a command -/

/-- A short command acts in the write that delivers it (R15, R130). While `BUSY` = 1 the port drops a command word
(R66), so nothing happens. -/
def runShort (i : Instr) (body : State → State) (s : State) : Host.Outcome State Fault Refusal :=
  if s.busy then .next s
  else if permitted i s then .next (body s)
  else .next (raiseError .sequence (encode i) s)

/-- A long command. With `BUSY` = 0 its word is delivered (R130): refused with SEQUENCE, refused by `check` (CONFIGURE's
configuration check, R132), or accepted. With `BUSY` = 1 it is the command in flight and the engine completes it (R45). -/
def runLong (i : Instr) (check : State → Option Word) (body : State → State) (s : State) :
    Host.Outcome State Fault Refusal :=
  if s.busy then .next (completeCommand (body s))
  else if permitted i s then
    match check s with
    | some m => .next (raiseError .config m s)
    | none => .next (acceptCommand (encode i) s)
  else .next (raiseError .sequence (encode i) s)

/-- No check beyond R136. -/
def noCheck (_ : State) : Option Word := none

end Sys2Proof.Machine
end

