-- ==== Sys2Proof/Machine/Lifecycle.lean ====
section
/-! DEFINITION. The life-cycle commands NOP, CONFIGURE, DISPOSE, RESETW and CLRERR (spec/41_lifecycle.md R131 to R135). -/

namespace Sys2Proof.Machine

/-- NOP (R131). -/
def execNop (s : State) : Host.Outcome State Fault Refusal := runShort .nop (fun s => s) s

/-- The configuration check of CONFIGURE (R132). -/
def configCheck (s : State) : Option Word := if configMask s = 0#32 then none else some (configMask s)

/-- The body of CONFIGURE (R132): every element of every buffer up to NMAX and LMAX becomes zero. -/
def configureBody (s : State) : State :=
  { s with
    xbuf := bufClear s.nmax s.xbuf
    dbuf := bufClear s.nmax s.dbuf
    obuf := bufClear s.nmax s.obuf
    ybuf := bufClear s.nmax s.ybuf
    ebuf := bufClear s.nmax s.ebuf
    wmem := bufClear s.lmax s.wmem
    tdl := bufClear s.lmax s.tdl
    seqr := seqrAt .fill (max s.nmax s.lmax) 0
    seq := 0#64
    yFresh := false
    eFresh := false
    eRef := false
    st := .ready }

/-- CONFIGURE (R132). -/
def execConfigure (s : State) : Host.Outcome State Fault Refusal := runLong .configure configCheck configureBody s

/-- The body of DISPOSE (R133); the buffers' contents are unspecified after it. -/
def disposeBody (s : State) : State :=
  freeBuffers { s with st := .unconfigured, yFresh := false, eFresh := false, eRef := false }

/-- DISPOSE (R133). -/
def execDispose (s : State) : Host.Outcome State Fault Refusal := runShort .dispose disposeBody s

/-- The body of RESETW (R134). -/
def resetwBody (s : State) : State :=
  { s with
    wmem := bufClear s.lmax s.wmem
    seqr := seqrAt .fill s.lmax 0
    yFresh := false
    eFresh := false
    st := .ready }

/-- RESETW (R134). -/
def execResetw (s : State) : Host.Outcome State Fault Refusal := runLong .resetw noCheck resetwBody s

/-- CLRERR (R135). -/
def execClrerr (s : State) : Host.Outcome State Fault Refusal := runShort .clrerr clearError s

end Sys2Proof.Machine
end

