-- ==== Sys2Proof/Machine/Adapt.lean ====
section
/-! DEFINITION. ADAPT: the coefficient update feedback path (spec/44_adapt.md R163 to R170). -/

namespace Sys2Proof.Machine

/-- The flags and the counter of a completed adapt step (R165, R170): fresh flags 0, `SEQ <- (SEQ + 1) mod 2^64`. -/
def adaptDone (s : State) : State := { s with yFresh := false, eFresh := false, seq := s.seq + 1#64 }

/-- The body of ADAPT (R165, R169). -/
def adaptBody (s : State) : State × Bool :=
  endPass 3#2 adaptDone s (adpPass s.num s.mu s.lenN s.lenL s.xAt s.datapath)

/-- ADAPT (R163). -/
def execAdapt (s : State) : Host.Outcome State Fault Refusal :=
  runLong .adapt noCheck (fun s => (adaptBody s).1) s

end Sys2Proof.Machine
end

