-- ==== Sys2Proof/Machine/Estimate.lean ====
section
/-! DEFINITION. ESTIMATE: delay line, convolution core, MAC array (spec/42_estimate.md R145 to R150). -/

namespace Sys2Proof.Machine

/-- The flags of a completed estimate step (R147): `Y_FRESH <- 1; E_FRESH <- 0`. -/
def estimateDone (s : State) : State := { s with yFresh := true, eFresh := false }

/-- The body of ESTIMATE (R147, R150). -/
def estimateBody (s : State) : State × Bool :=
  endPass 1#2 estimateDone s (estPass s.num s.lenN s.lenL s.xAt s.datapath)

/-- ESTIMATE (R145). -/
def execEstimate (s : State) : Host.Outcome State Fault Refusal :=
  runLong .estimate noCheck (fun s => (estimateBody s).1) s

end Sys2Proof.Machine
end

