-- ==== Sys2Proof/Machine/Residual.lean ====
section
/-! DEFINITION. RESIDUAL: error computation and output quantiser (spec/43_residual.md R155 to R159). -/

namespace Sys2Proof.Machine

/-- The flags of a completed residual step (R156): `E_FRESH <- 1; E_REF <- REF`. -/
def residualDone (ref : Bool) (s : State) : State := { s with eFresh := true, eRef := ref }

/-- The body of RESIDUAL (R156, R159). -/
def residualBody (ref : Bool) (s : State) : State × Bool :=
  endPass 2#2 (residualDone ref) s (resPass s.num s.lenN (s.srcAt ref) s.datapath)

/-- RESIDUAL (R155). -/
def execResidual (ref : Bool) (s : State) : Host.Outcome State Fault Refusal :=
  runLong (.residual ref) noCheck (fun s => (residualBody ref s).1) s

end Sys2Proof.Machine
end

