-- ==== Sys2Proof/Machine/Process.lean ====
section
/-! DEFINITION. PROCESS: one whole cycle (spec/45_process.md R175, R176). -/

namespace Sys2Proof.Machine

/-- The body of PROCESS (R176): the three bodies in order, ended by the first anomaly. -/
def processBody (ref : Bool) (s : State) : State × Bool :=
  andThen (andThen (estimateBody s) (residualBody ref)) adaptBody

/-- PROCESS (R175). -/
def execProcess (ref : Bool) (s : State) : Host.Outcome State Fault Refusal :=
  runLong (.process ref) noCheck (fun s => (processBody ref s).1) s

end Sys2Proof.Machine
end

