-- ==== Sys2Proof/Machine/Dispatch.lean ====
section
/-! DEFINITION. The dispatch of a command to its meaning (spec/41_lifecycle.md R130, spec/10_state.md R45): one arm per
constructor of `Instr`. -/

namespace Sys2Proof.Machine

-- With `BUSY` = 0: the command is delivered (R130). With `BUSY` = 1: the engine completes it (R45).
def exec (i : Instr) (s : State) : Host.Outcome State Fault Refusal :=
  match i with
  | .nop => Sys2Proof.Machine.execNop s
  | .configure => Sys2Proof.Machine.execConfigure s
  | .dispose => Sys2Proof.Machine.execDispose s
  | .resetw => Sys2Proof.Machine.execResetw s
  | .estimate => Sys2Proof.Machine.execEstimate s
  | .residual ref => Sys2Proof.Machine.execResidual ref s
  | .adapt => Sys2Proof.Machine.execAdapt s
  | .process ref => Sys2Proof.Machine.execProcess ref s
  | .clrerr => Sys2Proof.Machine.execClrerr s

end Sys2Proof.Machine
end

