-- ==== Sys2Proof/Machine/Port.lean ====
section
/-! DEFINITION. The host port: `HostRead` and `HostWrite` in full (spec/20_memory.md R84), the order of their checks (R82),
and the engine's complete step (spec/10_state.md R45). -/

namespace Sys2Proof.Machine

/-- Why the port answers `ERR`; the answer itself does not say (R60). -/
inductive PortError where
  | misaligned         -- R61
  | reservedRegion     -- R62
  | noRegister         -- R63
  | readOnlyRegister   -- R64
  | lockedWhileBusy    -- R66
  | configLocked       -- R67
  | unconfigured       -- R65
  | busy               -- R66
  | indexOutOfBound    -- R70
  | readOnlyRegion     -- R71
  | notSext16          -- R72
  deriving DecidableEq, Repr

/-- Check 3 of R82 for a read. -/
def csrReadError (a : Offset) : Option PortError :=
  match csrOf a with
  | none => some .noRegister
  | some _ => none

/-- Check 3 of R82 for a write. -/
def csrWriteError (a : Offset) (s : State) : Option PortError :=
  match csrOf a with
  | none => some .noRegister
  | some r =>
    if r.readOnly then some .readOnlyRegister
    else if (r.isConfig || decide (r = .cmd)) && s.busy then some .lockedWhileBusy
    else if r.isConfig && decide (s.st ≠ .unconfigured) then some .configLocked
    else none

/-- The part of check 4 of R82 that reads and writes share. -/
def bufferError (a : Offset) (s : State) : Option PortError :=
  if s.st = .unconfigured then some .unconfigured
  else if s.busy then some .busy
  else if !regionIndexOk (regionOf a) a s then some .indexOutOfBound
  else none

/-- The checks of R82 for a read; the first that applies. -/
def readError (a : Offset) (s : State) : Option PortError :=
  if !aligned a then some .misaligned
  else match regionOf a with
    | .reserved => some .reservedRegion
    | .csr => csrReadError a
    | .xbuf | .dbuf | .wmem | .ybuf | .ebuf | .obuf | .tdl => bufferError a s

/-- The checks of R82 for a write; the first that applies. -/
def writeError (a : Offset) (v : Word) (s : State) : Option PortError :=
  if !aligned a then some .misaligned
  else match regionOf a with
    | .reserved => some .reservedRegion
    | .csr => csrWriteError a s
    | .xbuf | .dbuf =>
      match bufferError a s with
      | some e => some e
      | none => if isSext16 v then none else some .notSext16
    | .wmem => bufferError a s
    | .ybuf | .ebuf | .obuf | .tdl =>
      match bufferError a s with
      | some e => some e
      | none => some .readOnlyRegion

/-- The value a register reads as (R22, R24 to R38). -/
def csrRead (r : Csr) (s : State) : Word :=
  match r with
  | .id => Config.idValue
  | .capN => s.capN
  | .capL => s.capL
  | .capFmt => s.capFmt.setWidth 32
  | .cfgN => s.cfgN
  | .cfgL => s.cfgL
  | .cfgMuLo => s.cfgMuLo
  | .cfgMuHi => s.cfgMuHi
  | .cmd => 0#32
  | .status => statusWord s
  | .cause => causeWord s.cause
  | .einfo => s.einfo
  | .seqLo => halfOf false s.seq
  | .seqHi => halfOf true s.seq
  | .irqEn => s.irqEn.setWidth 32
  | .irqPend => s.irqPend.setWidth 32

/-- The value a permitted read returns (R84). -/
def readValue (a : Offset) (s : State) : Word :=
  match regionOf a with
  | .csr => match csrOf a with
    | some r => csrRead r s
    | none => 0#32
  | .xbuf => sext32 (s.xAt (sampleIndex a))
  | .dbuf => sext32 (s.dAt (sampleIndex a))
  | .obuf => sext32 (s.oAt (sampleIndex a))
  | .tdl => sext32 (s.tAt (sampleIndex a))
  | .wmem => halfOf (halfSelect a) (s.format.enc (s.wAt (numIndex a)))
  | .ybuf => halfOf (halfSelect a) (s.format.enc (s.yAt (numIndex a)))
  | .ebuf => halfOf (halfSelect a) (s.format.enc (s.eAt (numIndex a)))
  | .reserved => 0#32

/-- `HostRead(a)` (R84): the answer alone, no side effect (R76). -/
def hostRead (a : Offset) (s : State) : State :=
  match readError a s with
  | some _ => respond .err s
  | none => respond (.value (readValue a s)) s

/-- `Dispatch(c)` (R130): ILLEGAL, or the command's own dispatch. -/
def dispatch (c : Word) (s : State) : Host.Outcome State Fault Refusal :=
  match decode c with
  | .error _ => .next (raiseError .illegal c s)
  | .ok i => exec i s

/-- The half write of `WMEM` (R74). Since `dec` undoes `enc` in every NUM (R121, `NumLaws.dec_enc`), the half that is not written is
preserved whenever the mixture is a pattern the NUM accepts. -/
def writeWmem (a : Offset) (v : Word) (s : State) : State :=
  let e := withHalf (halfSelect a) (s.format.enc (s.wAt (numIndex a))) v
  clearFresh { s with wmem := bufSet s.zero s.wmem (numIndex a) (s.format.dec e) }

/-- The effect of a permitted write to a register other than `CMD` (R23, R84). -/
def csrWrite (r : Csr) (v : Word) (s : State) : State :=
  match r with
  | .cfgN => { s with cfgN := v }
  | .cfgL => { s with cfgL := v }
  | .cfgMuLo => { s with cfgMuLo := v }
  | .cfgMuHi => { s with cfgMuHi := v }
  | .irqEn => { s with irqEn := v.extractLsb' 0 2 }
  | .irqPend => { s with irqPend := s.irqPend &&& ~~~(v.extractLsb' 0 2) }
  | .id | .capN | .capL | .capFmt | .cmd | .status | .cause | .einfo | .seqLo | .seqHi => s

/-- The effect of a permitted write to a region (R72 to R74, R84). -/
def writeEffect (a : Offset) (v : Word) (s : State) : State :=
  match regionOf a with
  | .csr => match csrOf a with
    | some r => csrWrite r v s
    | none => s
  | .xbuf => clearFresh { s with xbuf := bufSet 0#16 s.xbuf (sampleIndex a) (asI16 v) }
  | .dbuf => { s with dbuf := bufSet 0#16 s.dbuf (sampleIndex a) (asI16 v), eFresh := false }
  | .wmem => writeWmem a v s
  | .ybuf | .ebuf | .obuf | .tdl | .reserved => s

/-- `HostWrite(a, v)` (R84). -/
def hostWrite (a : Offset) (v : Word) (s : State) : Host.Outcome State Fault Refusal :=
  match writeError a v s with
  | some _ => .next (respond .err s)
  | none =>
    if a = cmdOffset then dispatch v (respond .done s)
    else .next (respond .done (writeEffect a v s))

/-- The engine's step (R45): enabled exactly when `BUSY` = 1; it executes the command in `PEND`. With `BUSY` = 0 the engine
has no step and nothing happens. -/
def engineStep (s : State) : Host.Outcome State Fault Refusal :=
  if s.busy then
    match decode s.pend with
    | .ok i => if i.isLong then exec i s else .fault .pendNotLong
    | .error _ => .fault .pendNotLong
  else .next s

/-- One event of the total order (R77) on the state that no longer lists it. -/
def runEvent (e : Event) (s : State) : Host.Outcome State Fault Refusal :=
  match e with
  | .read a => .next (hostRead a s)
  | .write a v => hostWrite a v s
  | .engine => engineStep s
  | .reset => .next (resetMachine s)

/-- The next event of the total order; when none is queued the engine completes what is in flight, and an idle AFE waits
for its host (R45, R216, R220). -/
def runNext (s : State) : Host.Outcome State Fault Refusal :=
  match s.inputs with
  | [] => engineStep s
  | e :: rest => runEvent e { s with inputs := rest }

/-- The state in which the command word `c` is the next thing delivered: the port accepts a command only while `BUSY` = 0
(R66), and the write to `CMD` is the first of the events. -/
def placeCommand (c : Word) (s : State) : State :=
  { s with busy := false, inputs := .write cmdOffset c :: s.inputs }

end Sys2Proof.Machine
end

