-- ==== Sys2Proof/Machine/Step.lean ====
section
/-! DEFINITION. One step of the AFE (spec/20_memory.md R77, spec/10_state.md R45), and the placing of a command where the
next step takes it. -/

namespace Sys2Proof.Machine

/-- One step: the next operation of the total order of host operations, complete steps and resets. -/
def step (s : State) : Host.Outcome State Fault Refusal := runNext s

/-- `s` with the command word of `nbits` bits `w` as the next write to `CMD` (R80; log 1 says how a script comes to run). -/
def State.withFetchWord (s : State) (nbits w : Nat) : State := placeCommand (BitVec.ofNat 32 (w % 2 ^ nbits)) s

end Sys2Proof.Machine
end

