-- ==== Sys2Proof/Machine/Script.lean ====
section
/-! DEFINITION. The host-script notation (spec/30_encoding.md R100 to R102) as lists of events: what a script's lines stand
for. `WAIT` is, in the model, the engine's complete step before the next line (R101). -/

namespace Sys2Proof.Machine

/-- The base of a region (R62, R100). -/
def regionBase (r : Region) : Nat :=
  match r with
  | .csr => 0x00000
  | .xbuf => 0x10000
  | .dbuf => 0x20000
  | .wmem => 0x30000
  | .ybuf => 0x40000
  | .ebuf => 0x50000
  | .obuf => 0x60000
  | .tdl => 0x70000
  | .reserved => 0x80000

/-- `addr(BUF[i])` of a sample buffer: base + 4·i (R100). -/
def sampleAddr (r : Region) (i : Nat) : Offset := BitVec.ofNat 20 (regionBase r + 4 * i)

/-- `addr(BUF[i].LO)` and `addr(BUF[i].HI)` of a NUM buffer: base + 8·i, + 4 for `.HI` (R100). -/
def numAddr (r : Region) (i : Nat) (hi : Bool) : Offset :=
  BitVec.ofNat 20 (regionBase r + 8 * i + (if hi then 4 else 0))

/-- `CMD <mnemonic>` (R100). -/
def scriptCmd (i : Instr) : List Event := [.write cmdOffset (encode i)]

/-- `WAIT` (R101). -/
def scriptWait : List Event := [.engine]

/-- `WRMU <real>` (R101). -/
def scriptWriteMu (mu : Double) : List Event :=
  [.write 0x00018#20 (halfOf false mu), .write 0x0001C#20 (halfOf true mu)]

/-- `WRW k, <real>` (R101). -/
def scriptWriteCoeff (k : Nat) (w : Double) : List Event :=
  [.write (numAddr .wmem k false) (halfOf false w), .write (numAddr .wmem k true) (halfOf true w)]

/-- `RDW k`, `RDY n`, `RDE n` (R101). -/
def scriptReadNum (r : Region) (i : Nat) : List Event := [.read (numAddr r i false), .read (numAddr r i true)]

/-- `WR BUF[i], v0` and so on, from element `i` (R101). -/
def scriptLoadFrom (r : Region) : Nat → List Sample → List Event
  | _, [] => []
  | i, v :: vs => .write (sampleAddr r i) (sext32 v) :: scriptLoadFrom r (i + 1) vs

/-- `LDX`, `LDD` (R101). -/
def scriptLoad (r : Region) (vs : List Sample) : List Event := scriptLoadFrom r 0 vs

/-- `RDO`, `RDT` over `m` elements (R101). -/
def scriptReadSamples (r : Region) (m : Nat) : List Event := (List.range m).map fun i => .read (sampleAddr r i)

/-- `CYCLE` and `CYCLE REF` (R101). -/
def scriptCycle (ref : Bool) : List Event := scriptCmd (.process ref) ++ scriptWait

/-- `CYCLE3` and `CYCLE3 REF` (R101). -/
def scriptCycle3 (ref : Bool) : List Event :=
  scriptCmd .estimate ++ scriptWait ++ scriptCmd (.residual ref) ++ scriptWait ++ scriptCmd .adapt ++ scriptWait

/-- Construction of the engine with (N, L, μ) (R102, R218). -/
def scriptConstruct (n l : Word) (mu : Double) : List Event :=
  [.write 0x00010#20 n, .write 0x00014#20 l] ++ scriptWriteMu mu ++ scriptCmd .configure ++ scriptWait

end Sys2Proof.Machine
end

