-- ==== Sys2Proof/Safety.lean ====
section
/-! DEFINITION. The terms in which claims speak: the reference values of the three steps (spec/42_estimate.md R146 to R148,
spec/43_residual.md R156, spec/44_adapt.md R165), equality up to the bits of a NaN (spec/40_numerics.md R118, R126), and the
invariants of spec/10_state.md R33 and R47. -/

namespace Sys2Proof.Machine

/-! ### Reference values -/

/-- x[n−k], with x[j] = 0 for j < 0 (R12, R146). -/
def delayAt (x : Nat → Sample) (n k : Nat) : Sample := if k ≤ n then x (n - k) else 0#16

/-- y[n]: the left-to-right sum over the `L` taps, every product rounded, then added, from `ZERO` (R147, R148). -/
def convAt {α : Type} (F : NumOps α) (w : Nat → α) (x : Nat → Sample) (L n : Nat) : α :=
  (List.range L).foldl (fun acc k => F.add acc (F.mul (w k) (F.cvt (delayAt x n k)))) F.zero

/-- e[n] = cvt(s[n]) − y[n] (R156). -/
def residualAt {α : Type} (F : NumOps α) (src : Nat → Sample) (y : Nat → α) (n : Nat) : α := F.sub (F.cvt (src n)) (y n)

/-- Coefficient `k` after the samples 0 to n−1 of the adapt pass, from the value `w0` (R165). -/
def coeffAt {α : Type} (F : NumOps α) (mu : α) (e : Nat → α) (x : Nat → Sample) (k n : Nat) (w0 : α) : α :=
  (List.range n).foldl (fun w j => F.add w (F.mul (F.mul mu (e j)) (F.cvt (delayAt x j k)))) w0

/-- The value of a finite binary64 number as a rational (R111). -/
def b64Value (a : Double) : ℚ := (b64Int a : ℚ) / (2 : ℚ) ^ (1074 : Nat)

/-! ### Equality up to what the spec leaves open or does not distinguish -/

/-- The same number, or two NaNs: equality up to the sign and fraction of a NaN (R118, R126, U3). -/
def sameNum (a b : Double) : Prop := a = b ∨ (b64IsNaN a = true ∧ b64IsNaN b = true)

/-- The same result of an implementation of the given `CAP_FMT` code: equal, but for the bits of a NaN in binary64 (R126). -/
def sameCode (fmt : BitVec 8) (a b : NumCode) : Prop := if fmt = 1#8 then sameNum a b else a = b

/-- The same number, or two zeros: equal in value (R119, R167). -/
def sameValue (a b : Double) : Prop := a = b ∨ (b64IsZero a = true ∧ b64IsZero b = true)

/-- Two states that a host cannot tell apart, but for NaN bits: registers and elements of the buffers (R177). -/
structure State.SameVisible (s t : State) : Prop where
  status : statusWord s = statusWord t
  cause : s.cause = t.cause
  einfo : s.einfo = t.einfo
  seq : s.seq = t.seq
  irqEn : s.irqEn = t.irqEn
  irqPend : s.irqPend = t.irqPend
  caps : s.capN = t.capN ∧ s.capL = t.capL ∧ s.capFmt = t.capFmt
  config : s.cfgN = t.cfgN ∧ s.cfgL = t.cfgL ∧ s.cfgMuLo = t.cfgMuLo ∧ s.cfgMuHi = t.cfgMuHi
  samples : ∀ i, s.xAt i = t.xAt i ∧ s.dAt i = t.dAt i ∧ s.oAt i = t.oAt i ∧ s.tAt i = t.tAt i
  numbers : ∀ i, sameCode s.capFmt (s.wAt i) (t.wAt i) ∧ sameCode s.capFmt (s.yAt i) (t.yAt i)
    ∧ sameCode s.capFmt (s.eAt i) (t.eAt i)

/-! ### The spec's tables, as claims read them -/

/-- The command table of R92: word, command, and whether it is long. -/
def commandTable : List (Word × Instr × Bool) :=
  [(0x00000000#32, .nop, false), (0x00000001#32, .configure, true), (0x00000002#32, .dispose, false),
   (0x00000003#32, .resetw, true), (0x00000004#32, .estimate, true), (0x00000005#32, .residual false, true),
   (0x00000105#32, .residual true, true), (0x00000006#32, .adapt, true), (0x00000007#32, .process false, true),
   (0x00000107#32, .process true, true), (0x00000008#32, .clrerr, false)]

/-- The rows of R136: UNCONFIGURED, READY, FAULT, and the further precondition. -/
def commandRow (i : Instr) (s : State) : Bool × Bool × Bool × Bool :=
  match i with
  | .nop => (true, true, true, true)
  | .configure => (true, false, false, true)
  | .dispose => (false, true, true, true)
  | .resetw => (false, true, true, true)
  | .estimate => (false, true, false, true)
  | .residual _ => (false, true, false, s.yFresh)
  | .adapt => (false, true, false, s.eFresh)
  | .process _ => (false, true, false, true)
  | .clrerr => (true, true, true, true)

/-- The cell of the current state and the precondition hold (R136). -/
def commandAllowed (i : Instr) (s : State) : Bool :=
  let (inUnconfigured, inReady, inFault, pre) := commandRow i s
  (match s.st with
    | .unconfigured => inUnconfigured
    | .ready => inReady
    | .fault => inFault) && pre

/-- The register map of R22: offset and what a read of it returns, the codes of `CAUSE` written out (R35, R186). -/
def csrTable (s : State) : List (Offset × Word) :=
  [(0x00000#20, 0x41464531#32), (0x00004#20, s.capN), (0x00008#20, s.capL), (0x0000C#20, s.capFmt.setWidth 32),
   (0x00010#20, s.cfgN), (0x00014#20, s.cfgL), (0x00018#20, s.cfgMuLo), (0x0001C#20, s.cfgMuHi),
   (0x00020#20, 0#32), (0x00024#20, statusWord s),
   (0x00028#20, match s.cause with
      | .none => 0#32
      | .config => 1#32
      | .numeric => 2#32
      | .sequence => 3#32
      | .illegal => 4#32),
   (0x0002C#20, s.einfo),
   (0x00030#20, s.seq.setWidth 32), (0x00034#20, (s.seq >>> 32).setWidth 32), (0x00038#20, s.irqEn.setWidth 32),
   (0x0003C#20, s.irqPend.setWidth 32)]

/-- The element index a buffer offset selects is past the implemented depth (R68 to R70), on the offset as a number. -/
def pastDepth (a : Nat) (s : State) : Prop :=
  (a / 65536 ∈ [1, 2, 6] ∧ s.nmax ≤ a % 65536 / 4) ∨ (a / 65536 ∈ [4, 5] ∧ s.nmax ≤ a % 65536 / 8)
    ∨ (a / 65536 = 3 ∧ s.lmax ≤ a % 65536 / 8) ∨ (a / 65536 = 7 ∧ s.lmax ≤ a % 65536 / 4)

/-- A read is answered `ERR` (R61 to R70, R82), on the offset as a number. -/
def readRefused (a : Nat) (s : State) : Prop :=
  a % 4 ≠ 0 ∨ 8 ≤ a / 65536 ∨ (a / 65536 = 0 ∧ 0x40 ≤ a)
    ∨ (1 ≤ a / 65536 ∧ (s.st = .unconfigured ∨ s.busy = true ∨ pastDepth a s))

/-- A write is answered `ERR` (R61 to R72, R82), on the offset as a number. -/
def writeRefused (a : Nat) (v : Word) (s : State) : Prop :=
  readRefused a s
    ∨ a ∈ [0x00, 0x04, 0x08, 0x0C, 0x24, 0x28, 0x2C, 0x30, 0x34]
    ∨ (a ∈ [0x10, 0x14, 0x18, 0x1C, 0x20] ∧ s.busy = true)
    ∨ (a ∈ [0x10, 0x14, 0x18, 0x1C] ∧ s.st ≠ .unconfigured)
    ∨ a / 65536 ∈ [4, 5, 6, 7]
    ∨ (a / 65536 ∈ [1, 2] ∧ ¬ (-32768 ≤ v.toInt ∧ v.toInt ≤ 32767))

/-! ### Invariants -/

/-- The implemented depths are legal (R7, R25). -/
abbrev State.DepthsOk (s : State) : Prop :=
  1 ≤ s.nmax ∧ s.nmax ≤ Config.depthCeiling ∧ 1 ≤ s.lmax ∧ s.lmax ≤ Config.depthCeiling

/-- The code is the encoding of a value of NUM: what it decodes to is encoded by it (R110, R121). -/
def isValue (F : NumOps NumCode) (a : NumCode) : Prop := F.dec (F.enc a) = a

/-- Every NUM element and register the state holds is a value of the implementation's NUM (R40, R42): dec(enc(a)) = a (R74, R110,
R121). -/
structure State.NumbersOk (s : State) : Prop where
  wmem : ∀ k, isValue s.format (s.wAt k)
  ybuf : ∀ n, isValue s.format (s.yAt n)
  ebuf : ∀ n, isValue s.format (s.eAt n)
  acc : isValue s.format s.acc
  g : isValue s.format s.g

/-- N, L and μ = dec({`CFG_MU_HI`, `CFG_MU_LO`}) are those of a constructed engine (R8, R28, R47 b). -/
abbrev State.Configured (s : State) : Prop :=
  1 ≤ s.lenN ∧ s.lenN ≤ s.nmax ∧ 1 ≤ s.lenL ∧ s.lenL ≤ s.lmax
    ∧ s.format.finite (s.format.dec (s.cfgMuHi ++ s.cfgMuLo)) = true
    ∧ s.format.neg0 (s.format.dec (s.cfgMuHi ++ s.cfgMuLo)) = false

/-- While `BUSY` = 1, `PEND` holds a long command that was permitted when it was accepted (R43, R130, R136). -/
def State.PendOk (s : State) : Prop :=
  ∃ i, decode s.pend = .ok i ∧ i.isLong = true ∧ permitted i s = true ∧ (i = .configure → configMask s = 0#32)

/-- The invariants of R47 (a, by the type of `st`, to f), of R36 for NONE, of the command latch, of the idle sequencer
(R44), of the buffers' canonical form and of the NUM values (R110). -/
structure State.Inv (s : State) : Prop where
  depths : s.DepthsOk
  configured : s.st ≠ .unconfigured → s.Configured
  freshOrder : s.eFresh = true → s.yFresh = true
  freshReady : s.yFresh = true → s.st = .ready
  record : s.cause = .none ↔ s.err = false
  recordInfo : s.err = false → s.einfo = 0#32
  taps : s.st ≠ .unconfigured → ∀ k, s.lenL ≤ k → s.tAt k = 0#16
  latch : s.busy = true → s.PendOk
  sequencer : s.seqr.phase = .idle
  memory : Memory.wf s = true
  numbers : s.NumbersOk

/-- What the freshness flags mean (R33): `YBUF` is the estimate of the present `XBUF` under the present `WMEM`, finite; `EBUF`
and `OBUF` are the residual of the present `YBUF` and the present source frame, finite. `nan` is the pattern of a produced NaN: no
finite value depends on it. -/
structure State.FreshMeans (s : State) : Prop where
  estimate : s.yFresh = true → ∃ nan, b64IsNaN nan = true ∧ ∀ n < s.lenN,
    s.yAt n = convAt (numOf s.capFmt nan) s.wAt s.xAt s.lenL n ∧ s.format.finite (s.yAt n) = true
  residual : s.eFresh = true → ∃ nan, b64IsNaN nan = true ∧ ∀ n < s.lenN,
    s.eAt n = residualAt (numOf s.capFmt nan) (if s.eRef then s.dAt else s.xAt) s.yAt n
      ∧ s.format.finite (s.eAt n) = true ∧ s.oAt n = s.format.q16 (s.eAt n)

/-- `t` is `s` but for the unobservable registers, which are unspecified between commands (R42 to R44), and the model's
draw counter. -/
def State.sameButHidden (s t : State) : Prop :=
  t = { s with acc := t.acc, g := t.g, pend := t.pend, seqr := t.seqr, freeCount := t.freeCount }

end Sys2Proof.Machine
end

