-- ==== Sys2Proof/Certificates/Slice0/Obligations.lean ====
section
/-! DEFINITION. What the provers are to settle: claims about the machine taken from the numbered rules of spec/. The NUM of
the machine is an argument, the constant CAP_FMT (R7, R25): a statement holds for every NUM that meets the laws of R110 but
where it says CAP_FMT = 1. The hidden registers ACC, G, PEND, SEQR.n and SEQR.k are unspecified between commands (R42 to R44, U2), so a frame leaves them out. -/

open Sys2Proof Sys2Proof.Machine

/-! ### Encoding -/

/-- The words of 95_test_vectors.md V-D1 to V-D18 decode as listed there. -/
def Obligations.SpecWordsDecode : Prop :=
  decode 0x00000000#32 = .ok .nop ∧ decode 0x00000001#32 = .ok .configure ∧ decode 0x00000002#32 = .ok .dispose
    ∧ decode 0x00000003#32 = .ok .resetw ∧ decode 0x00000004#32 = .ok .estimate
    ∧ decode 0x00000105#32 = .ok (.residual true) ∧ decode 0x00000006#32 = .ok .adapt
    ∧ decode 0x00000007#32 = .ok (.process false) ∧ decode 0x00000008#32 = .ok .clrerr
    ∧ decode 0x00000009#32 = .error .reservedOpc ∧ decode 0x00000104#32 = .error .refNotAllowed
    ∧ decode 0x80000007#32 = .error .reservedBits

/-- Decoding the word of a well-formed command gives the command back (R92, R95). -/
def Obligations.DecodeOfEncodedCommand : Prop :=
  ∀ i : Instr, i.wellFormed = true → decode (encode i) = .ok i

/-- R92: the eleven words of the table, each its command with its kind, and no other word, are commands. -/
def Obligations.CommandTableIsExact : Prop :=
  ∀ (c : Word) (i : Instr), decode c = .ok i ↔ (c, i, i.isLong) ∈ commandTable

/-- R94, R191: a word with RSV not 0, OPC in 0x09 to 0xFF, or REF = 1 with OPC other than 0x05 and 0x07 executes nothing and
records ILLEGAL with EINFO = the word; no state other than the error record changes. -/
def Obligations.IllegalWordIsRecorded : Prop :=
  ∀ (s : State) (c : Word) (rest : List Event), s.inputs = .write 0x00020#20 c :: rest → s.busy = false →
    (c.toNat / 512 ≠ 0 ∨ 8 < c.toNat % 256 ∨ (c.toNat / 256 % 2 = 1 ∧ c.toNat % 256 ≠ 5 ∧ c.toNat % 256 ≠ 7)) →
    step s = .next { s with
      inputs := rest, resps := .done :: s.resps, irqPend := s.irqPend ||| 2#2, err := true
      cause := if s.err then s.cause else .illegal, einfo := if s.err then s.einfo else c }

/-! ### One step -/

/-- A command word written to CMD while BUSY = 0 runs the decoded command, on the state that has answered OK and no longer
lists the write (R80, R130). -/
def Obligations.StepRunsDeliveredCommand : Prop :=
  ∀ (s : State) (c : Word) (rest : List Event) (i : Instr), s.inputs = .write 0x00020#20 c :: rest → s.busy = false →
    decode c = .ok i → step s = exec i { s with inputs := rest, resps := .done :: s.resps }

/-- With BUSY = 1, at a step of the engine or when nothing else is to happen, the step runs the command in PEND (R45). -/
def Obligations.StepCompletesPendingCommand : Prop :=
  ∀ (s : State) (i : Instr), s.busy = true → decode s.pend = .ok i → i.isLong = true →
    (s.inputs = [] → step s = exec i s) ∧
      ∀ rest, s.inputs = .engine :: rest → step s = exec i { s with inputs := rest }

/-- The step is enabled exactly when BUSY = 1 (R45): with BUSY = 0 and nothing to do the AFE waits for its host (R216). -/
def Obligations.IdleMachineWaits : Prop :=
  ∀ s : State, s.busy = false → (s.inputs = [] → step s = .next s) ∧
    ∀ rest, s.inputs = .engine :: rest → step s = .next { s with inputs := rest }

/-! ### The host port -/

/-- R82: which accesses are answered ERR, for reads and writes; a read changes nothing but the answer (R76). -/
def Obligations.PortRefusesExactly : Prop :=
  ∀ (s : State) (a : Offset) (rest : List Event),
    (s.inputs = .read a :: rest → ∃ r, step s = .next { s with inputs := rest, resps := r :: s.resps } ∧
      (r = .err ↔ readRefused a.toNat s)) ∧
    ∀ v, s.inputs = .write a v :: rest → ∃ t, step s = .next t ∧
      (t.resps = .err :: s.resps ↔ writeRefused a.toNat v s) ∧
      (t.resps = .done :: s.resps ↔ ¬ writeRefused a.toNat v s)

/-- R60: a write answered ERR changes nothing; in particular nothing is recorded and no interrupt is raised (R192). -/
def Obligations.RefusedWriteChangesNothing : Prop :=
  ∀ (s t : State) (a : Offset) (v : Word) (rest : List Event), s.inputs = .write a v :: rest → step s = .next t →
    t.resps = .err :: s.resps → t = { s with inputs := rest, resps := .err :: s.resps }

/-- R192: a write to CMD while BUSY = 1 is answered ERR and dropped, not recorded. -/
def Obligations.BusyCommandIsDropped : Prop :=
  ∀ (s : State) (c : Word) (rest : List Event), s.inputs = .write 0x00020#20 c :: rest → s.busy = true →
    step s = .next { s with inputs := rest, resps := .err :: s.resps }

/-- R22: a read of each of the sixteen registers returns what the map says, in every state. -/
def Obligations.RegisterReads : Prop :=
  ∀ (s : State) (rest : List Event), ∀ p ∈ csrTable s, s.inputs = .read p.1 :: rest →
    step s = .next { s with inputs := rest, resps := .value p.2 :: s.resps }

/-- R30: the layout of STATUS. -/
def Obligations.StatusLayout : Prop :=
  ∀ s : State,
    (statusWord s).extractLsb' 0 2 = (match s.st with | .unconfigured => 0#2 | .ready => 1#2 | .fault => 2#2)
    ∧ (statusWord s).extractLsb' 2 2 = 0#2 ∧ (statusWord s).getLsbD 4 = s.busy ∧ (statusWord s).getLsbD 5 = s.err
    ∧ (statusWord s).getLsbD 6 = s.yFresh ∧ (statusWord s).getLsbD 7 = s.eFresh ∧ (statusWord s).getLsbD 8 = s.eRef
    ∧ (statusWord s).extractLsb' 9 23 = 0#23

/-- R68, R69: a permitted read of a buffer element returns its sign extension, or the half of its encoding that its
offset selects. -/
def Obligations.BufferReads : Prop :=
  ∀ (s : State) (rest : List Event) (i : Nat), s.st ≠ .unconfigured → s.busy = false →
    (i < 16384 → i < s.nmax →
      (s.inputs = .read (BitVec.ofNat 20 (0x10000 + 4 * i)) :: rest →
        step s = .next { s with inputs := rest, resps := .value ((s.xAt i).signExtend 32) :: s.resps }) ∧
      (s.inputs = .read (BitVec.ofNat 20 (0x20000 + 4 * i)) :: rest →
        step s = .next { s with inputs := rest, resps := .value ((s.dAt i).signExtend 32) :: s.resps }) ∧
      (s.inputs = .read (BitVec.ofNat 20 (0x60000 + 4 * i)) :: rest →
        step s = .next { s with inputs := rest, resps := .value ((s.oAt i).signExtend 32) :: s.resps })) ∧
    (i < 16384 → i < s.lmax → s.inputs = .read (BitVec.ofNat 20 (0x70000 + 4 * i)) :: rest →
      step s = .next { s with inputs := rest, resps := .value ((s.tAt i).signExtend 32) :: s.resps }) ∧
    ∀ h < 2,
      (i < 8192 → i < s.lmax → s.inputs = .read (BitVec.ofNat 20 (0x30000 + 8 * i + 4 * h)) :: rest →
        step s = .next { s with inputs := rest, resps := .value ((s.format.enc (s.wAt i)).extractLsb' (32 * h) 32) :: s.resps }) ∧
      (i < 8192 → i < s.nmax →
        (s.inputs = .read (BitVec.ofNat 20 (0x40000 + 8 * i + 4 * h)) :: rest →
          step s = .next { s with inputs := rest, resps := .value ((s.format.enc (s.yAt i)).extractLsb' (32 * h) 32) :: s.resps }) ∧
        (s.inputs = .read (BitVec.ofNat 20 (0x50000 + 8 * i + 4 * h)) :: rest →
          step s = .next { s with inputs := rest, resps := .value ((s.format.enc (s.eAt i)).extractLsb' (32 * h) 32) :: s.resps }))

/-- R23, R26 to R28, R38: writes to the configuration and interrupt registers. -/
def Obligations.RegisterWrites : Prop :=
  ∀ (s : State) (v : Word) (rest : List Event),
    (s.st = .unconfigured → s.busy = false →
      (s.inputs = .write 0x00010#20 v :: rest →
        step s = .next { s with inputs := rest, resps := .done :: s.resps, cfgN := v }) ∧
      (s.inputs = .write 0x00014#20 v :: rest →
        step s = .next { s with inputs := rest, resps := .done :: s.resps, cfgL := v }) ∧
      (s.inputs = .write 0x00018#20 v :: rest →
        step s = .next { s with inputs := rest, resps := .done :: s.resps, cfgMuLo := v }) ∧
      (s.inputs = .write 0x0001C#20 v :: rest →
        step s = .next { s with inputs := rest, resps := .done :: s.resps, cfgMuHi := v })) ∧
    (s.inputs = .write 0x00038#20 v :: rest →
      step s = .next { s with inputs := rest, resps := .done :: s.resps, irqEn := v.setWidth 2 }) ∧
    (s.inputs = .write 0x0003C#20 v :: rest → ∃ t, step s = .next t ∧
      t = { s with inputs := rest, resps := .done :: s.resps, irqPend := t.irqPend } ∧
      ∀ b < 2, t.irqPend.getLsbD b = (s.irqPend.getLsbD b && !v.getLsbD b))

/-- R72, R73: a permitted write of a sample stores it in its element alone and clears the fresh flags. -/
def Obligations.SampleWrites : Prop :=
  ∀ (s : State) (rest : List Event) (i : Nat) (v : Sample), s.st ≠ .unconfigured → s.busy = false →
    i < 16384 → i < s.nmax →
    (s.inputs = .write (BitVec.ofNat 20 (0x10000 + 4 * i)) (v.signExtend 32) :: rest → ∃ t, step s = .next t ∧
      (∀ j, t.xAt j = if j = i then v else s.xAt j) ∧
      t = { s with inputs := rest, resps := .done :: s.resps, xbuf := t.xbuf, yFresh := false, eFresh := false }) ∧
    (s.inputs = .write (BitVec.ofNat 20 (0x20000 + 4 * i)) (v.signExtend 32) :: rest → ∃ t, step s = .next t ∧
      (∀ j, t.dAt j = if j = i then v else s.dAt j) ∧
      t = { s with inputs := rest, resps := .done :: s.resps, dbuf := t.dbuf, eFresh := false })

/-- R74, R73: a permitted write of half `h` of a coefficient replaces that half alone of its encoding, decodes the result `E` and
clears the fresh flags. Where `E` is a pattern NUM accepts, the element reads as `E`: the other half is preserved (R121). A half
written back as it reads leaves a value as it is. -/
def Obligations.CoefficientHalfWrites : Prop :=
  ∀ (s : State) (rest : List Event) (i h : Nat) (v : Word), s.st ≠ .unconfigured → s.busy = false →
    i < 8192 → i < s.lmax → h < 2 →
    s.inputs = .write (BitVec.ofNat 20 (0x30000 + 8 * i + 4 * h)) v :: rest → ∃ t, step s = .next t ∧
      (∀ j, j ≠ i → t.wAt j = s.wAt j)
      ∧ (∃ E : BitVec 64, t.wAt i = s.format.dec E ∧ E.extractLsb' (32 * h) 32 = v
        ∧ E.extractLsb' (32 * (1 - h)) 32 = (s.format.enc (s.wAt i)).extractLsb' (32 * (1 - h)) 32
        ∧ (s.format.enc (s.format.dec E) = E → t.format.enc (t.wAt i) = E))
      ∧ (isValue s.format (s.wAt i) → v = (s.format.enc (s.wAt i)).extractLsb' (32 * h) 32 → t.wAt i = s.wAt i)
      ∧ t = { s with inputs := rest, resps := .done :: s.resps, wmem := t.wmem, yFresh := false, eFresh := false }

/-! ### Dispatch and the life-cycle commands -/

/-- R131: NOP changes nothing, in every state. -/
def Obligations.NopChangesNothing : Prop :=
  ∀ s : State, exec .nop s = .next s

/-- R136, R190: a command whose row of R136 does not allow it is not executed; SEQUENCE is recorded with its word, and no
state other than the error record changes. -/
def Obligations.RefusedCommandIsRecorded : Prop :=
  ∀ (i : Instr) (s : State), s.busy = false → commandAllowed i s = false →
    ∃ c, decode c = .ok i ∧ exec i s = .next { s with
      irqPend := s.irqPend ||| 2#2, err := true
      cause := if s.err then s.cause else .sequence, einfo := if s.err then s.einfo else c }

/-- R130: an allowed long command (CONFIGURE with a valid configuration) is accepted: PEND holds its word, BUSY is 1, and
nothing else changes. -/
def Obligations.LongCommandIsAccepted : Prop :=
  ∀ (i : Instr) (s : State), s.busy = false → commandAllowed i s = true → i.isLong = true →
    (i = .configure → s.Configured) → ∃ c, decode c = .ok i ∧ exec i s = .next { s with pend := c, busy := true }

/-- R132, R187: CONFIGURE with an invalid configuration records CONFIG with every failed check's bit and changes nothing
else. -/
def Obligations.InvalidConfigurationIsRecorded : Prop :=
  ∀ s : State, s.busy = false → s.st = .unconfigured → ¬ s.Configured →
    let mu := s.format.dec (s.cfgMuHi ++ s.cfgMuLo)
    ∃ m : Word,
    m.getLsbD 0 = decide (s.lenN = 0) ∧ m.getLsbD 1 = decide (s.nmax < s.lenN) ∧ m.getLsbD 2 = decide (s.lenL = 0)
    ∧ m.getLsbD 3 = decide (s.lmax < s.lenL) ∧ m.getLsbD 4 = !s.format.finite mu
    ∧ m.getLsbD 5 = (s.format.finite mu && s.format.neg0 mu) ∧ m.toNat < 64
    ∧ exec .configure s = .next { s with
        irqPend := s.irqPend ||| 2#2, err := true
        cause := if s.err then s.cause else .config, einfo := if s.err then s.einfo else m }

/-- R132, R219: the body of CONFIGURE leaves every element of every buffer zero, SEQ 0, no flag set, READY. -/
def Obligations.ConfigureBuildsEngine : Prop :=
  ∀ s : State, s.busy = true → Memory.wf s = true → ∃ t, exec .configure s = .next t ∧
    (∀ i, t.xAt i = 0#16 ∧ t.dAt i = 0#16 ∧ t.oAt i = 0#16 ∧ t.yAt i = s.zero ∧ t.eAt i = s.zero ∧ t.wAt i = s.zero
      ∧ t.tAt i = 0#16) ∧
    t = { s with
      st := .ready, busy := false, yFresh := false, eFresh := false, eRef := false, seq := 0#64
      irqPend := s.irqPend ||| 1#2
      xbuf := t.xbuf, dbuf := t.dbuf, obuf := t.obuf, ybuf := t.ybuf, ebuf := t.ebuf, wmem := t.wmem, tdl := t.tdl
      acc := t.acc, g := t.g, pend := t.pend, seqr := t.seqr, freeCount := t.freeCount }

/-- R133: DISPOSE; the contents of the buffers are unspecified after it, every register but the named ones is unchanged. -/
def Obligations.DisposeEndsEngine : Prop :=
  ∀ s : State, s.busy = false → s.st ≠ .unconfigured → ∃ t, exec .dispose s = .next t ∧
    t = { s with
      st := .unconfigured, yFresh := false, eFresh := false, eRef := false
      xbuf := t.xbuf, dbuf := t.dbuf, obuf := t.obuf, ybuf := t.ybuf, ebuf := t.ebuf, wmem := t.wmem, tdl := t.tdl
      freeCount := t.freeCount }

/-- R134: RESETW zeroes the coefficients, clears the fresh flags and returns to READY, and touches nothing else. -/
def Obligations.ResetwZeroesCoefficients : Prop :=
  ∀ s : State, s.busy = true → Memory.wf s = true → ∃ t, exec .resetw s = .next t ∧
    (∀ k, t.wAt k = s.zero) ∧
    t = { s with
      st := .ready, busy := false, yFresh := false, eFresh := false, irqPend := s.irqPend ||| 1#2, wmem := t.wmem
      acc := t.acc, g := t.g, pend := t.pend, seqr := t.seqr, freeCount := t.freeCount }

/-- R135: CLRERR clears the record and changes nothing else. -/
def Obligations.ClrerrClearsRecord : Prop :=
  ∀ s : State, s.busy = false → exec .clrerr s = .next { s with err := false, cause := .none, einfo := 0#32 }

/-! ### The three steps and PROCESS -/

/-- R147, R151: ESTIMATE computes y[n] for n < N and leaves the line of the last sample; the frame. -/
def Obligations.EstimateComputesConvolution : Prop :=
  ∀ s : State, s.busy = true → s.Configured →
    (∀ n < s.lenN, s.num.finite (convAt s.num s.wAt s.xAt s.lenL n) = true) → ∃ t, exec .estimate s = .next t ∧
    (∀ n, t.yAt n = if n < s.lenN then convAt s.num s.wAt s.xAt s.lenL n else s.yAt n) ∧
    (∀ k, t.tAt k = if k < s.lenL then (if k < s.lenN then s.xAt (s.lenN - 1 - k) else 0#16) else s.tAt k) ∧
    t = { s with
      busy := false, yFresh := true, eFresh := false, irqPend := s.irqPend ||| 1#2, ybuf := t.ybuf, tdl := t.tdl
      acc := t.acc, g := t.g, pend := t.pend, seqr := t.seqr, freeCount := t.freeCount }

/-- R150: ESTIMATE ended by a non-finite sum at sample n. -/
def Obligations.EstimateAnomalyHalts : Prop :=
  ∀ (s : State) (n : Nat), s.busy = true → s.Configured → s.DepthsOk → n < s.lenN →
    (∀ m < n, s.num.finite (convAt s.num s.wAt s.xAt s.lenL m) = true) →
    s.num.finite (convAt s.num s.wAt s.xAt s.lenL n) = false → ∃ t, exec .estimate s = .next t ∧
    (∀ m, t.yAt m = if m ≤ n then convAt s.num s.wAt s.xAt s.lenL m else s.yAt m) ∧
    (∀ k, t.tAt k = if k < s.lenL then delayAt s.xAt n k else s.tAt k) ∧
    t = { s with
      busy := false, st := .fault, yFresh := false, eFresh := false, err := true
      cause := if s.err then s.cause else .numeric
      einfo := if s.err then s.einfo else BitVec.ofNat 32 (1 + 4 * n)
      irqPend := s.irqPend ||| 3#2, ybuf := t.ybuf, tdl := t.tdl
      acc := t.acc, g := t.g, pend := t.pend, seqr := t.seqr, freeCount := t.freeCount }

/-- R156: RESIDUAL computes e[n] and its quantised form from the source frame that REF selects, `DBUF` for 1 and
`XBUF` for 0 (R93); the frame. -/
def Obligations.ResidualComputesError : Prop :=
  ∀ (ref : Bool) (s : State), s.busy = true →
    (∀ n < s.lenN, s.num.finite (residualAt s.num (if ref then s.dAt else s.xAt) s.yAt n) = true) →
    ∃ t, exec (.residual ref) s = .next t ∧
    (∀ n, t.eAt n = if n < s.lenN then residualAt s.num (if ref then s.dAt else s.xAt) s.yAt n else s.eAt n) ∧
    (∀ n, t.oAt n = if n < s.lenN then s.num.q16 (residualAt s.num (if ref then s.dAt else s.xAt) s.yAt n) else s.oAt n) ∧
    t = { s with
      busy := false, eFresh := true, eRef := ref, irqPend := s.irqPend ||| 1#2, ebuf := t.ebuf, obuf := t.obuf
      acc := t.acc, g := t.g, pend := t.pend, seqr := t.seqr, freeCount := t.freeCount }

/-- R159: RESIDUAL ended by a non-finite error at sample n. -/
def Obligations.ResidualAnomalyHalts : Prop :=
  ∀ (ref : Bool) (s : State) (n : Nat), s.busy = true → s.Configured → s.DepthsOk → n < s.lenN →
    (∀ m < n, s.num.finite (residualAt s.num (if ref then s.dAt else s.xAt) s.yAt m) = true) →
    s.num.finite (residualAt s.num (if ref then s.dAt else s.xAt) s.yAt n) = false → ∃ t, exec (.residual ref) s = .next t ∧
    (∀ m, t.eAt m = if m ≤ n then residualAt s.num (if ref then s.dAt else s.xAt) s.yAt m else s.eAt m) ∧
    (∀ m, t.oAt m = if m < n then s.num.q16 (residualAt s.num (if ref then s.dAt else s.xAt) s.yAt m) else s.oAt m) ∧
    t = { s with
      busy := false, st := .fault, yFresh := false, eFresh := false, err := true
      cause := if s.err then s.cause else .numeric
      einfo := if s.err then s.einfo else BitVec.ofNat 32 (2 + 4 * n)
      irqPend := s.irqPend ||| 3#2, ebuf := t.ebuf, obuf := t.obuf
      acc := t.acc, g := t.g, pend := t.pend, seqr := t.seqr, freeCount := t.freeCount }

/-- R165: ADAPT applies N rounded updates to every coefficient, in ascending n, with μ = dec({CFG_MU_HI, CFG_MU_LO})
(R28, R99); the frame. -/
def Obligations.AdaptUpdatesCoefficients : Prop :=
  ∀ s : State, s.busy = true → s.Configured →
    let mu := s.num.dec (s.cfgMuHi ++ s.cfgMuLo)
    (∀ n < s.lenN, ∀ k < s.lenL, s.num.finite (coeffAt s.num mu s.eAt s.xAt k (n + 1) (s.wAt k)) = true) →
    ∃ t, exec .adapt s = .next t ∧
    (∀ k, t.wAt k = if k < s.lenL then coeffAt s.num mu s.eAt s.xAt k s.lenN (s.wAt k) else s.wAt k) ∧
    (∀ k, t.tAt k = if k < s.lenL then (if k < s.lenN then s.xAt (s.lenN - 1 - k) else 0#16) else s.tAt k) ∧
    t = { s with
      busy := false, yFresh := false, eFresh := false, seq := s.seq + 1#64, irqPend := s.irqPend ||| 1#2
      wmem := t.wmem, tdl := t.tdl
      acc := t.acc, g := t.g, pend := t.pend, seqr := t.seqr, freeCount := t.freeCount }

/-- R169: ADAPT ended by a non-finite update at (n, k): the updates before it applied, those after it not. -/
def Obligations.AdaptAnomalyHalts : Prop :=
  ∀ (s : State) (n k : Nat), s.busy = true → s.Configured → s.DepthsOk → n < s.lenN → k < s.lenL →
    let mu := s.num.dec (s.cfgMuHi ++ s.cfgMuLo)
    (∀ m < n, ∀ j < s.lenL, s.num.finite (coeffAt s.num mu s.eAt s.xAt j (m + 1) (s.wAt j)) = true) →
    (∀ j < k, s.num.finite (coeffAt s.num mu s.eAt s.xAt j (n + 1) (s.wAt j)) = true) →
    s.num.finite (coeffAt s.num mu s.eAt s.xAt k (n + 1) (s.wAt k)) = false → ∃ t, exec .adapt s = .next t ∧
    (∀ j, t.wAt j = if j ≤ k then coeffAt s.num mu s.eAt s.xAt j (n + 1) (s.wAt j)
      else if j < s.lenL then coeffAt s.num mu s.eAt s.xAt j n (s.wAt j) else s.wAt j) ∧
    (∀ j, t.tAt j = if j < s.lenL then delayAt s.xAt n j else s.tAt j) ∧
    t = { s with
      busy := false, st := .fault, yFresh := false, eFresh := false, err := true
      cause := if s.err then s.cause else .numeric
      einfo := if s.err then s.einfo else BitVec.ofNat 32 (3 + 4 * n + 65536 * k)
      irqPend := s.irqPend ||| 3#2, wmem := t.wmem, tdl := t.tdl
      acc := t.acc, g := t.g, pend := t.pend, seqr := t.seqr, freeCount := t.freeCount }

/-- R176: PROCESS without error: the estimate and residual of the coefficients from before the command, the updated
coefficients, the flags, SEQ; the frame. `nan` stands for any NaN pattern: none of the values depends on it. -/
def Obligations.ProcessRunsWholeCycle : Prop :=
  ∀ (ref : Bool) (s : State) (nan : Double), s.busy = true → s.Configured → b64IsNaN nan = true →
    let F := numOf s.capFmt nan
    let mu := F.dec (s.cfgMuHi ++ s.cfgMuLo)
    let y := convAt F s.wAt s.xAt s.lenL
    let e := residualAt F (if ref then s.dAt else s.xAt) y
    (∀ n < s.lenN, F.finite (y n) = true) → (∀ n < s.lenN, F.finite (e n) = true) →
    (∀ n < s.lenN, ∀ k < s.lenL, F.finite (coeffAt F mu e s.xAt k (n + 1) (s.wAt k)) = true) →
    ∃ t, exec (.process ref) s = .next t ∧
    (∀ n, t.yAt n = if n < s.lenN then y n else s.yAt n) ∧
    (∀ n, t.eAt n = if n < s.lenN then e n else s.eAt n) ∧
    (∀ n, t.oAt n = if n < s.lenN then F.q16 (e n) else s.oAt n) ∧
    (∀ k, t.wAt k = if k < s.lenL then coeffAt F mu e s.xAt k s.lenN (s.wAt k) else s.wAt k) ∧
    (∀ k, t.tAt k = if k < s.lenL then (if k < s.lenN then s.xAt (s.lenN - 1 - k) else 0#16) else s.tAt k) ∧
    t = { s with
      busy := false, yFresh := false, eFresh := false, eRef := ref, seq := s.seq + 1#64
      irqPend := s.irqPend ||| 1#2
      ybuf := t.ybuf, ebuf := t.ebuf, obuf := t.obuf, wmem := t.wmem, tdl := t.tdl
      acc := t.acc, g := t.g, pend := t.pend, seqr := t.seqr, freeCount := t.freeCount }

/-- R176: PROCESS ended by an anomaly ends as the failing body does, the effects of the earlier bodies kept. -/
def Obligations.ProcessEndsAtFirstAnomaly : Prop :=
  ∀ (ref : Bool) (s : State), s.busy = true →
    ((estimateBody s).2 = false → exec (.process ref) s = exec .estimate s) ∧
    ((estimateBody s).2 = true → (residualBody ref (estimateBody s).1).2 = false →
      exec (.process ref) s = exec (.residual ref) (estimateBody s).1) ∧
    ((estimateBody s).2 = true → (residualBody ref (estimateBody s).1).2 = true →
      exec (.process ref) s = exec .adapt (residualBody ref (estimateBody s).1).1)

/-- R177: from the same READY state, CYCLE and CYCLE3 end in states a host cannot tell apart, but for NaN bits. -/
def Obligations.ProcessEqualsThreeCommands : Prop :=
  ∀ (ref : Bool) (s : State), s.Inv → s.st = .ready → s.busy = false →
    ∃ t1 t2, Sys2Proof.core.run 2 { s with inputs := scriptCycle ref } = .next t1 ∧
      Sys2Proof.core.run 6 { s with inputs := scriptCycle3 ref } = .next t2 ∧ State.SameVisible t1 t2

/-- R149 (a): in binary64, with all coefficients zero, ESTIMATE gives y[n] = +0 for all n. -/
def Obligations.ZeroCoefficientsGiveZero : Prop :=
  ∀ s : State, s.capFmt = 1#8 → s.busy = true → s.Configured → (∀ k < s.lenL, b64IsZero (s.wAt k) = true) →
    ∃ t, exec .estimate s = .next t ∧ t.yFresh = true ∧ ∀ n < s.lenN, t.yAt n = 0#64

/-- R167: in binary64, with μ = 0 no coefficient changes in value, while SEQ counts and the fresh flags are cleared. -/
def Obligations.ZeroRateKeepsCoefficients : Prop :=
  ∀ s : State, s.capFmt = 1#8 → s.busy = true → s.Configured → b64IsZero (s.cfgMuHi ++ s.cfgMuLo) = true →
    (∀ n < s.lenN, b64Finite (s.eAt n) = true) → (∀ k < s.lenL, b64Finite (s.wAt k) = true) → ∃ t, exec .adapt s = .next t ∧
      (∀ k, sameValue (t.wAt k) (s.wAt k)) ∧ t.seq = s.seq + 1#64 ∧ t.yFresh = false ∧ t.eFresh = false
      ∧ t.st = s.st

/-- R158 (e): in binary64, with a finite estimate the subtraction cannot overflow, so RESIDUAL completes. -/
def Obligations.FiniteEstimateNeverFaultsResidual : Prop :=
  ∀ (ref : Bool) (s : State), s.capFmt = 1#8 → s.busy = true → (∀ n < s.lenN, b64Finite (s.yAt n) = true) →
    ∃ t, exec (.residual ref) s = .next t ∧ t.eFresh = true ∧ t.st = s.st ∧
      ∀ n < s.lenN, b64Finite (t.eAt n) = true

/-! ### Errors and interrupts -/

/-- R189: the error-recording sequence. -/
def Obligations.FirstErrorIsKept : Prop :=
  ∀ (c : Cause) (info : Word) (s : State),
    (raiseError c info s).err = true
    ∧ (s.err = false → (raiseError c info s).cause = c ∧ (raiseError c info s).einfo = info)
    ∧ (s.err = true → (raiseError c info s).cause = s.cause ∧ (raiseError c info s).einfo = s.einfo)
    ∧ (raiseError c info s).irqPend.getLsbD 1 = true ∧ (raiseError c info s).irqPend.getLsbD 0 = s.irqPend.getLsbD 0
    ∧ (c = .numeric → (raiseError c info s).st = .fault ∧ (raiseError c info s).yFresh = false
        ∧ (raiseError c info s).eFresh = false)
    ∧ (c ≠ .numeric → (raiseError c info s).st = s.st ∧ (raiseError c info s).yFresh = s.yFresh
        ∧ (raiseError c info s).eFresh = s.eFresh)

/-- R200: the interrupt line is up exactly when a pending source is enabled. -/
def Obligations.InterruptLine : Prop :=
  ∀ s : State, s.irq = true ↔ ∃ b < 2, s.irqPend.getLsbD b = true ∧ s.irqEn.getLsbD b = true

/-- R45, R198: every long command completes: BUSY 0, DONE pending, the sequencer idle; it leaves the configuration, the
interrupt enables, the input frames, the events and the answers as they are (CONFIGURE alone zeroes the frames). -/
def Obligations.CompletionEndsCommand : Prop :=
  ∀ (i : Instr) (s : State), i.isLong = true → s.busy = true → ∃ t, exec i s = .next t ∧
    t.busy = false ∧ t.irqPend.getLsbD 0 = true ∧ t.seqr.phase = .idle
    ∧ t.capN = s.capN ∧ t.capL = s.capL ∧ t.capFmt = s.capFmt ∧ t.cfgN = s.cfgN ∧ t.cfgL = s.cfgL ∧ t.cfgMuLo = s.cfgMuLo
    ∧ t.cfgMuHi = s.cfgMuHi ∧ t.irqEn = s.irqEn ∧ t.inputs = s.inputs ∧ t.resps = s.resps
    ∧ (i ≠ .configure → t.xbuf = s.xbuf ∧ t.dbuf = s.dbuf)

/-! ### Numerics -/

/-- R110, R121: the NUM of every implementation is an instance that meets the laws, over the encodings of its values: finite and
exact conversions, ZERO neutral, dec(enc(a)) = a for every value, and enc(dec(b)) = b for every pattern that encodes one. An AFE whose
`CAP_FMT` is 1 (R7, R25) computes in binary64 (R111), with some NaN pattern for the NaNs it produces; there every pattern is
accepted. -/
def Obligations.EveryNumMeetsItsLaws : Prop :=
  (∀ (fmt : BitVec 8) (nan : Double), ∃ (α : Type) (F : NumOps α), NumLaws F ∧ numOf fmt nan = encoded F
    ∧ ∀ a, (numOf fmt nan).enc ((numOf fmt nan).dec (F.enc a)) = F.enc a) ∧
  (∀ s : State, s.capFmt = 1#8 → s.format = binary64 0#64 ∧ ∃ nan, b64IsNaN nan = true ∧ s.num = binary64 nan) ∧
  ∀ nan : Double, let F := binary64 nan
    NumLaws F
    ∧ F.finite F.zero = true ∧ (∀ x : Sample, F.finite (F.cvt x) = true)
    ∧ (∀ a, F.finite a = true → b64IsZero a = false → F.add a F.zero = a)
    ∧ (∀ a, F.dec (F.enc a) = a) ∧ ∀ b, F.enc (F.dec b) = b

/-- R113: the sum of finite numbers is finite exactly when the exact sum is below the largest finite value plus half of its last
place, an infinity of the sum's sign otherwise; a finite sum is a nearest number, the even one of two. A zero sum of non-zero
numbers is +0 (R119). Values in units of 2^−1074: the bound is (2^54 − 1) · 2^2044 of them. -/
def Obligations.AddRoundsToNearestEven : Prop :=
  ∀ nan a b : Double, b64Finite a = true → b64Finite b = true →
    let z := b64Int a + b64Int b
    let r := b64Add nan a b
    (b64Finite r = true ↔ z.natAbs < (2 ^ 54 - 1) * 2 ^ 2044)
    ∧ (b64Finite r = false → r = b64Inf (decide (z < 0)))
    ∧ (z = 0 → b64IsZero a = false → r = b64Zero false)
    ∧ (b64Finite r = true → ∀ c : Double, b64Finite c = true →
        (b64Int r - z).natAbs ≤ (b64Int c - z).natAbs
        ∧ ((b64Int r - z).natAbs = (b64Int c - z).natAbs → b64Int c ≠ b64Int r → b64Frac r % 2 = 0))

/-- R114: the product of finite numbers has the exclusive or of their signs; it is finite exactly when the exact magnitude is below
the largest finite value plus half of its last place, and an infinity otherwise; a finite product is a nearest number, the even
one of two. Magnitudes multiply in units of 2^−2148. -/
def Obligations.MulRoundsToNearestEven : Prop :=
  ∀ nan a b : Double, b64Finite a = true → b64Finite b = true →
    let z := b64Int a * b64Int b
    let r := b64Mul nan a b
    b64Sign r = (b64Sign a != b64Sign b)
    ∧ (b64Finite r = true ↔ z.natAbs < (2 ^ 54 - 1) * 2 ^ 3118)
    ∧ (b64Finite r = false → r = b64Inf (b64Sign a != b64Sign b))
    ∧ (b64Finite r = true → ∀ c : Double, b64Finite c = true →
        (b64Int r * 2 ^ 1074 - z).natAbs ≤ (b64Int c * 2 ^ 1074 - z).natAbs
        ∧ ((b64Int r * 2 ^ 1074 - z).natAbs = (b64Int c * 2 ^ 1074 - z).natAbs →
            b64Int c ≠ b64Int r → b64Frac r % 2 = 0))

/-- R113, R114: the operations on NaNs and infinities; sub is add of the negation. -/
def Obligations.SpecialOperands : Prop :=
  ∀ nan a b : Double, b64IsNaN nan = true →
    (b64IsNaN a = true ∨ b64IsNaN b = true →
      b64IsNaN (b64Add nan a b) = true ∧ b64IsNaN (b64Sub nan a b) = true ∧ b64IsNaN (b64Mul nan a b) = true)
    ∧ (b64IsInf a = true → b64IsInf b = true → b64Sign a ≠ b64Sign b → b64IsNaN (b64Add nan a b) = true)
    ∧ (b64IsInf a = true → b64IsInf b = true → b64Sign a = b64Sign b → b64Add nan a b = a)
    ∧ (b64IsInf a = true → b64Finite b = true → b64Add nan a b = a ∧ b64Add nan b a = a)
    ∧ (b64IsInf a = true → b64IsZero b = true → b64IsNaN (b64Mul nan a b) = true ∧ b64IsNaN (b64Mul nan b a) = true)
    ∧ (b64IsInf a = true → b64IsNaN b = false → b64IsZero b = false →
        b64IsInf (b64Mul nan a b) = true ∧ b64Sign (b64Mul nan a b) = (b64Sign a != b64Sign b)
        ∧ b64Mul nan b a = b64Mul nan a b)
    ∧ b64Sub nan a b = b64Add nan a (b64Neg b)

/-- R119, R110: signed zeros in sums and products, and the neutral element. -/
def Obligations.SignedZeros : Prop :=
  ∀ nan a b : Double,
    (b64IsZero a = true → b64IsZero b = true → b64Add nan a b = b64Zero (b64Sign a && b64Sign b))
    ∧ (b64Finite a = true → b64IsZero a = false → b64IsZero b = true → b64Add nan a b = a ∧ b64Add nan b a = a)
    ∧ (b64IsZero a = true → b64Finite b = true →
        b64Mul nan a b = b64Zero (b64Sign a != b64Sign b) ∧ b64Mul nan b a = b64Zero (b64Sign a != b64Sign b))

/-- R112: cvt is exact, finite, and cvt(0) = +0. -/
def Obligations.ConversionIsExact : Prop :=
  ∀ s : Sample, b64Finite (b64Cvt s) = true ∧ b64Int (b64Cvt s) = s.toInt * 2 ^ 1074 ∧ b64Cvt 0#16 = 0#64

/-- R120: q16 is the nearest integer, the even one at half way, saturated to [−32768, 32767]. -/
def Obligations.QuantiserRoundsAndSaturates : Prop :=
  ∀ a : Double, ∃ r : Int,
    (2 * (r * 2 ^ 1074 - b64Int a)).natAbs ≤ 2 ^ 1074
    ∧ ((2 * (r * 2 ^ 1074 - b64Int a)).natAbs = 2 ^ 1074 → r % 2 = 0)
    ∧ (b64Q16 a).toInt = (if r < -32768 then -32768 else if 32767 < r then 32767 else r)

/-- R148 over the exact instance (R125): the estimate pass always ends, with y[n] = Σ w[k]·x[n−k] over k ≤ min(n, L−1). -/
def Obligations.ExactEstimateIsConvolution : Prop :=
  ∀ (N L : Nat) (x : Nat → Sample) (d : Datapath ℚ), 0 < L →
    (estPass exactNum N L x d).2 = none ∧ ∀ n < N,
      bufGet 0 (estPass exactNum N L x d).1.ybuf n =
        ∑ k ∈ Finset.range (min (n + 1) L), bufGet 0 d.wmem k * ((x (n - k)).toInt : ℚ)

/-- R166 over the exact instance (R125): the adapt pass always ends, with w'[k] = w[k] + μ·Σ e[n]·x[n−k] over k ≤ n < N. -/
def Obligations.ExactAdaptIsBlockUpdate : Prop :=
  ∀ (mu : ℚ) (N L : Nat) (x : Nat → Sample) (d : Datapath ℚ), 0 < L →
    (adpPass exactNum mu N L x d).2 = none ∧ ∀ k < L,
      bufGet 0 (adpPass exactNum mu N L x d).1.wmem k =
        bufGet 0 d.wmem k + mu * ∑ n ∈ Finset.Ico k N, bufGet 0 d.ebuf n * ((x (n - k)).toInt : ℚ)

/-- R126: a long command completed from two states that differ only in the unobservable registers, the free values to come,
the events and the answers ends in states a host cannot tell apart, but for NaN bits. -/
def Obligations.CommandsAreDeterministic : Prop :=
  ∀ (i : Instr) (s s' : State), i.isLong = true → s.busy = true →
    s' = { s with
      acc := s'.acc, g := s'.g, pend := s'.pend, seqr := s'.seqr, freeCount := s'.freeCount, inputs := s'.inputs
      resps := s'.resps } →
    ∃ t t', exec i s = .next t ∧ exec i s' = .next t' ∧ State.SameVisible t t'

/-! ### Reset -/

/-- R48: what a host reads from every register after reset, with the default depths and NUM of R7. -/
def Obligations.ResetValues : Prop :=
  csrTable State.reset =
    [(0x00000#20, 0x41464531#32), (0x00004#20, 1024#32), (0x00008#20, 1024#32), (0x0000C#20, 1#32), (0x00010#20, 0#32),
     (0x00014#20, 0#32), (0x00018#20, 0#32), (0x0001C#20, 0#32), (0x00020#20, 0#32), (0x00024#20, 0#32),
     (0x00028#20, 0#32), (0x0002C#20, 0#32), (0x00030#20, 0#32), (0x00034#20, 0#32), (0x00038#20, 0#32),
     (0x0003C#20, 0#32)] ∧ State.reset.seqr.phase = .idle

/-- R215: the reset event in any state, also during a command: every register at its reset value; the buffers and the hidden
registers unspecified; the implementation's depths and NUM stay. -/
def Obligations.ResetEventAbandonsEverything : Prop :=
  ∀ (s : State) (rest : List Event), s.inputs = .reset :: rest → ∃ t, step s = .next t ∧ t.seqr.phase = .idle ∧
    Memory.wf t = true ∧
    t = { State.reset with
      capN := s.capN, capL := s.capL, capFmt := s.capFmt, inputs := rest, resps := s.resps
      xbuf := t.xbuf, dbuf := t.dbuf, obuf := t.obuf, ybuf := t.ybuf, ebuf := t.ebuf, wmem := t.wmem, tdl := t.tdl
      acc := t.acc, g := t.g, pend := t.pend, seqr := t.seqr, freeCount := t.freeCount }

/-! ### Invariants and whole-machine rules -/

/-- The state after reset meets the invariants. The zero buffers of State.reset are the model's choice (log 6). -/
def Obligations.ResetMeetsInvariants : Prop :=
  State.reset.Inv ∧ State.reset.FreshMeans

/-- R47 (a) to (f), R36, R43, R44, the canonical form of the buffers and dec(enc(a)) = a for every NUM value held (R110): every step
keeps them. -/
def Obligations.StepKeepsInvariants : Prop :=
  ∀ s t : State, s.Inv → step s = .next t → t.Inv

/-- R33: every step keeps the meaning of the freshness flags. -/
def Obligations.StepKeepsFreshness : Prop :=
  ∀ s t : State, s.Inv → s.FreshMeans → step s = .next t → t.FreshMeans

/-- No state that meets the invariants is stuck: every step gives a next state (R45, U15). -/
def Obligations.MachineNeverStops : Prop :=
  ∀ s : State, s.Inv → ∃ t, step s = .next t

/-- R137 (a): the only step out of UNCONFIGURED is the completion of a CONFIGURE, into READY. -/
def Obligations.OnlyConfigureLeavesUnconfigured : Prop :=
  ∀ s t : State, s.Inv → step s = .next t → s.st = .unconfigured → t.st ≠ .unconfigured →
    t.st = .ready ∧ s.busy = true ∧ decode s.pend = .ok .configure

/-- R137 (b), R67: while an engine is constructed, no step changes N, L or μ, and a step that leaves it constructed does not
either; DISPOSE leaves the configuration registers, reset alone clears them. -/
def Obligations.ConfigurationIsFrozen : Prop :=
  ∀ s t : State, s.Inv → step s = .next t → s.st ≠ .unconfigured → (∀ rest, s.inputs ≠ .reset :: rest) →
    t.cfgN = s.cfgN ∧ t.cfgL = s.cfgL ∧ t.cfgMuLo = s.cfgMuLo ∧ t.cfgMuHi = s.cfgMuHi

/-- R32: while BUSY stays 1, STATUS, CAUSE, EINFO and SEQ keep their values, and so do the buffers and PEND. -/
def Obligations.BusyHoldsRegisters : Prop :=
  ∀ s t : State, s.Inv → step s = .next t → s.busy = true → t.busy = true →
    statusWord t = statusWord s ∧ t.cause = s.cause ∧ t.einfo = s.einfo ∧ t.seq = s.seq ∧ t.pend = s.pend
    ∧ t.xbuf = s.xbuf ∧ t.dbuf = s.dbuf ∧ t.obuf = s.obuf ∧ t.wmem = s.wmem ∧ t.ybuf = s.ybuf ∧ t.ebuf = s.ebuf
    ∧ t.tdl = s.tdl

/-- R37, R170: SEQ changes only at a completion: to 0 by CONFIGURE, by 1 by an ADAPT or PROCESS that ends READY; reset apart. -/
def Obligations.SequenceNumberCountsCycles : Prop :=
  ∀ s t : State, s.Inv → step s = .next t → (∀ rest, s.inputs ≠ .reset :: rest) → t.seq ≠ s.seq →
    s.busy = true ∧ t.busy = false ∧
    ((decode s.pend = .ok .configure ∧ t.seq = 0#64) ∨
      ((decode s.pend = .ok .adapt ∨ ∃ ref, decode s.pend = .ok (.process ref)) ∧ t.seq = s.seq + 1#64 ∧ t.st = .ready))

/-- R40, R137 (c), R170: the coefficients change only by a host write to WMEM, by the completion of CONFIGURE, RESETW, ADAPT or
PROCESS, by DISPOSE, after which they are unspecified, and by reset. -/
def Obligations.CoefficientsHaveFewWriters : Prop :=
  ∀ s t : State, s.Inv → step s = .next t → t.wmem ≠ s.wmem →
    (∃ a v rest, s.inputs = .write a v :: rest ∧ a.toNat / 65536 = 3) ∨
    (s.busy = true ∧ t.busy = false ∧ ∃ i, decode s.pend = .ok i ∧
      (i = .configure ∨ i = .resetw ∨ i = .adapt ∨ ∃ ref, i = .process ref)) ∨
    (∃ rest, s.inputs = .write 0x00020#20 0x00000002#32 :: rest) ∨ ∃ rest, s.inputs = .reset :: rest
end

