-- ==== Sys2Proof/Laws/Buf.lean ====
section
/-! SUPPORT. The laws of the buffers: a read after a write, a clear or a fill, the canonical form kept by every operation, and
equality of canonical buffers by their elements. -/

namespace Sys2Proof.Machine

variable {α : Type}

@[simp] theorem bufGet_nil (z : α) (i : Nat) : bufGet z [] i = z := rfl

theorem bufGet_cons (z : α) (j : Nat) (v : α) (t : Buf α) (i : Nat) :
    bufGet z ((j, v) :: t) i = if i = j then v else bufGet z t i := rfl

/-- An element is what an entry says, or what an unlisted element reads as. -/
theorem bufGet_mem_or (z : α) (b : Buf α) (i : Nat) : (i, bufGet z b i) ∈ b ∨ bufGet z b i = z := by
  induction b with
  | nil => exact .inr rfl
  | cons c t ih =>
    obtain ⟨j, v⟩ := c
    by_cases h : i = j
    · subst h; simp [bufGet]
    · simp only [bufGet, List.mem_cons, Prod.mk.injEq, h, false_and, false_or]; exact ih

theorem bufGet_filter (z : α) (p : Nat → Bool) (b : Buf α) (i : Nat) :
    bufGet z (b.filter fun c => p c.1) i = if p i then bufGet z b i else z := by
  induction b with
  | nil => simp
  | cons c t ih =>
    obtain ⟨j, v⟩ := c
    by_cases hp : p j <;> by_cases h : i = j <;> simp_all [bufGet]

theorem bufGet_bufInsert (z : α) (i : Nat) (v : α) (b : Buf α) (hb : ∀ c ∈ b, c.1 ≠ i) (j : Nat) :
    bufGet z (bufInsert i v b) j = if j = i then v else bufGet z b j := by
  induction b with
  | nil => simp [bufInsert, bufGet]
  | cons c t ih =>
    obtain ⟨k, u⟩ := c
    have hk : k ≠ i := hb (k, u) (by simp)
    have ih' := ih fun c hc => hb c (by simp [hc])
    unfold bufInsert
    split
    · simp [bufGet]
    · by_cases h1 : j = k
      · subst h1; simp [bufGet, hk]
      · simp [bufGet, h1, ih']

/-- A read after a write: the value written there, and every other element as before. -/
@[simp] theorem bufGet_bufSet [DecidableEq α] (z : α) (b : Buf α) (i : Nat) (v : α) (j : Nat) :
    bufGet z (bufSet z b i v) j = if j = i then v else bufGet z b j := by
  have hf := bufGet_filter z (fun k => decide (k ≠ i)) b
  by_cases hv : v = z
  · simp only [bufSet, hv, if_true, hf]; by_cases h : j = i <;> simp [h]
  · simp only [bufSet, hv, if_false]
    rw [bufGet_bufInsert z i v _ (by simp) j, hf]
    by_cases h : j = i <;> simp [h]

@[simp] theorem bufGet_bufClear (z : α) (n : Nat) (b : Buf α) (i : Nat) :
    bufGet z (bufClear n b) i = if i < n then z else bufGet z b i := by
  have := bufGet_filter z (fun k => decide (n ≤ k)) b i
  simp only [bufClear, this]
  by_cases h : i < n
  · simp [h, Nat.not_le.2 h]
  · simp [h, Nat.not_lt.1 h]

/-! ### The canonical form -/

theorem bufWf_iff [DecidableEq α] (z : α) (bound : Nat) (b : Buf α) :
    bufWf z bound b = true ↔ b.Pairwise (fun c d => c.1 < d.1) ∧ ∀ c ∈ b, c.1 < bound ∧ c.2 ≠ z := by
  simp [bufWf]

@[simp] theorem bufWf_nil [DecidableEq α] (z : α) (bound : Nat) : bufWf z bound [] = true := by simp [bufWf]

theorem bufWf_filter [DecidableEq α] {z : α} {bound : Nat} {b : Buf α} (p : Nat × α → Bool)
    (h : bufWf z bound b = true) : bufWf z bound (b.filter p) = true := by
  rw [bufWf_iff] at h ⊢
  exact ⟨h.1.filter p, fun c hc => h.2 c (List.mem_filter.1 hc).1⟩

theorem mem_bufInsert (i : Nat) (v : α) (b : Buf α) (c : Nat × α) : c ∈ bufInsert i v b ↔ c = (i, v) ∨ c ∈ b := by
  induction b with
  | nil => simp [bufInsert]
  | cons d t ih =>
    obtain ⟨j, u⟩ := d
    unfold bufInsert
    split
    · simp
    · simp only [List.mem_cons, ih]; tauto

theorem bufInsert_pairwise (i : Nat) (v : α) (b : Buf α) (hb : ∀ c ∈ b, c.1 ≠ i)
    (h : b.Pairwise fun c d => c.1 < d.1) : (bufInsert i v b).Pairwise fun c d => c.1 < d.1 := by
  induction b with
  | nil => simp [bufInsert]
  | cons d t ih =>
    obtain ⟨j, u⟩ := d
    rw [List.pairwise_cons] at h
    have hj : j ≠ i := hb (j, u) (by simp)
    unfold bufInsert
    split
    case isTrue hlt =>
      refine List.pairwise_cons.2 ⟨?_, List.pairwise_cons.2 h⟩
      rintro c hc
      rcases List.mem_cons.1 hc with rfl | hc
      · exact hlt
      · exact hlt.trans (h.1 c hc)
    case isFalse hge =>
      refine List.pairwise_cons.2 ⟨?_, ih (fun c hc => hb c (by simp [hc])) h.2⟩
      rintro c hc
      rcases (mem_bufInsert i v t c).1 hc with rfl | hc
      · show j < i; omega
      · exact h.1 c hc

/-- A write keeps the canonical form. -/
theorem bufWf_bufSet [DecidableEq α] {z : α} {bound : Nat} {b : Buf α} (h : bufWf z bound b = true) {i : Nat}
    (hi : i < bound) (v : α) : bufWf z bound (bufSet z b i v) = true := by
  have hf := bufWf_filter (fun c => decide (c.1 ≠ i)) h
  unfold bufSet
  split
  · exact hf
  · next hv =>
    rw [bufWf_iff] at hf ⊢
    refine ⟨bufInsert_pairwise i v _ (by simp) hf.1, fun c hc => ?_⟩
    rcases (mem_bufInsert i v _ c).1 hc with rfl | hc
    · exact ⟨hi, hv⟩
    · exact hf.2 c hc

/-- A clear keeps the canonical form. -/
theorem bufWf_bufClear [DecidableEq α] {z : α} {bound : Nat} {b : Buf α} (h : bufWf z bound b = true) (n : Nat) :
    bufWf z bound (bufClear n b) = true :=
  bufWf_filter _ h

/-- A filled buffer is in canonical form. -/
theorem bufWf_bufOf [DecidableEq α] (z : α) (n : Nat) (f : Nat → α) : bufWf z n (bufOf z n f) = true := by
  rw [bufWf_iff]
  constructor
  · refine List.Pairwise.filterMap _ ?_ (List.pairwise_lt_range (n := n))
    intro i j hij c hc d hd
    have hc' : c = (i, f i) := by
      by_cases h : f i = z <;> simp_all
    have hd' : d = (j, f j) := by
      by_cases h : f j = z <;> simp_all
    subst hc' hd'; exact hij
  · intro c hc
    obtain ⟨i, hi, he⟩ := List.mem_filterMap.1 hc
    by_cases h : f i = z
    · simp [h] at he
    · simp only [h, if_false, Option.some.injEq] at he
      subst he
      exact ⟨List.mem_range.1 hi, h⟩

/-- Beyond its bound a canonical buffer reads as unlisted. -/
theorem bufGet_of_bufWf [DecidableEq α] {z : α} {bound : Nat} {b : Buf α} (h : bufWf z bound b = true) {i : Nat}
    (hi : bound ≤ i) : bufGet z b i = z := by
  rcases bufGet_mem_or z b i with hm | he
  · exact absurd (((bufWf_iff z bound b).1 h).2 _ hm).1 (by simpa using hi)
  · exact he

theorem bufGet_eq_of_mem [DecidableEq α] {z : α} {bound : Nat} {b : Buf α} (h : bufWf z bound b = true) {c : Nat × α}
    (hc : c ∈ b) : bufGet z b c.1 = c.2 := by
  have hp := ((bufWf_iff z bound b).1 h).1
  clear h
  induction b with
  | nil => simp at hc
  | cons d t ih =>
    obtain ⟨j, v⟩ := d
    rw [List.pairwise_cons] at hp
    rcases List.mem_cons.1 hc with rfl | hc
    · simp [bufGet]
    · have : j < c.1 := hp.1 c hc
      rw [bufGet_cons, if_neg (by omega)]
      exact ih hc hp.2

/-- Canonical buffers with equal elements are equal. -/
theorem buf_ext [DecidableEq α] {z : α} {m n : Nat} {a b : Buf α} (ha : bufWf z m a = true) (hb : bufWf z n b = true)
    (h : ∀ i, bufGet z a i = bufGet z b i) : a = b := by
  have key : ∀ {m n : Nat} {a b : Buf α}, bufWf z m a = true → bufWf z n b = true →
      (∀ i, bufGet z a i = bufGet z b i) → ∀ c ∈ a, c ∈ b := by
    intro m n a b ha hb h c hc
    have h1 := bufGet_eq_of_mem ha hc
    rcases bufGet_mem_or z b c.1 with hm | he
    · rw [← h, h1] at hm; exact hm
    · exact absurd (by rw [← h1, h, he]) (((bufWf_iff z m a).1 ha).2 c hc).2
  have irr : ∀ l : Buf α, (l.Pairwise fun c d : Nat × α => c.1 < d.1) → l.Nodup := fun l hl =>
    hl.imp fun hcd he => by subst he; exact lt_irrefl _ hcd
  have pa := ((bufWf_iff z m a).1 ha).1
  have pb := ((bufWf_iff z n b).1 hb).1
  refine List.Perm.eq_of_pairwise (le := fun c d => c.1 < d.1) ?_ pa pb ?_
  · intro c d _ _ h1 h2; exact absurd (h1.trans h2) (lt_irrefl _)
  · rw [List.perm_ext_iff_of_nodup (irr a pa) (irr b pb)]
    exact fun c => ⟨key ha hb h c, key hb ha (fun i => (h i).symm) c⟩

end Sys2Proof.Machine
end

