-- ==== Sys2Proof/Laws/Datapath.lean ====
section
/-! SUPPORT. What the loops of the three steps compute, once each: the delay line, the estimate pass, the residual step and the
adapt pass, over any NUM instance, up to the end or to the first anomaly. -/

namespace Sys2Proof.Machine

variable {α σ : Type}

/-- A property carried through a loop, up to its end (`P`) or to the anomaly that ends it (`Q`). -/
theorem loopUntil_ind (f : Nat → σ → σ × Option Anomaly) (P : Nat → σ → Prop) (Q : Anomaly → σ → Prop) :
    ∀ (c i : Nat) (d : σ), P i d →
      (∀ j d, i ≤ j → j < i + c → P j d → ((f j d).2 = none → P (j + 1) (f j d).1) ∧
        ∀ e, (f j d).2 = some e → Q e (f j d).1) →
      ((loopUntil f i c d).2 = none → P (i + c) (loopUntil f i c d).1) ∧
        ∀ e, (loopUntil f i c d).2 = some e → Q e (loopUntil f i c d).1 := by
  intro c
  induction c with
  | zero => intro i d h0 _; simpa [loopUntil] using h0
  | succ c ih =>
    intro i d h0 hs
    have h := hs i d le_rfl (by omega) h0
    rcases hf : f i d with ⟨d', _ | e⟩
    · simp only [loopUntil, hf]
      have := ih (i + 1) d' (by simpa [hf] using h.1)
        (fun j d h1 h2 hP => hs j d (by omega) (by omega) hP)
      rwa [show i + 1 + c = i + (c + 1) by omega] at this
    · simp only [loopUntil, hf]
      exact ⟨by simp, fun e' he => by simpa [hf, he] using h.2 e' (by simpa [hf] using he)⟩

/-! ### The delay line -/

theorem bufGet_shiftTaps (m : Nat) (t : Buf Sample) (j : Nat) :
    bufGet 0#16 (shiftTaps m t) j = if 1 ≤ j ∧ j ≤ m then bufGet 0#16 t (j - 1) else bufGet 0#16 t j := by
  induction m generalizing t with
  | zero => simp only [shiftTaps]; rw [if_neg (by omega)]
  | succ m ih =>
    rw [shiftTaps, ih]
    simp only [bufGet_bufSet]
    by_cases h1 : 1 ≤ j <;> by_cases h2 : j ≤ m
    · simp only [h1, h2, and_self, if_true, show j ≤ m + 1 by omega]
      rw [if_neg (by omega)]
    · by_cases h3 : j = m + 1
      · subst h3; simp
      · rw [if_neg (by omega), if_neg h3, if_neg (by omega)]
    · rw [if_neg (by omega), if_neg (by omega), if_neg (by omega)]
    · rw [if_neg (by omega), if_neg (by omega), if_neg (by omega)]

/-- A shift: the new sample at tap 0, every other tap of the line the one before it (R146). -/
theorem bufGet_shiftIn {L : Nat} (hL : 0 < L) (s : Sample) (t : Buf Sample) (j : Nat) :
    bufGet 0#16 (shiftIn L s t) j =
      if j = 0 then s else if j < L then bufGet 0#16 t (j - 1) else bufGet 0#16 t j := by
  simp only [shiftIn, bufGet_bufSet, bufGet_shiftTaps]
  by_cases h0 : j = 0
  · simp [h0]
  · by_cases h1 : j < L
    · simp only [h0, h1, if_true, if_false]; rw [if_pos (by omega)]
    · simp only [h0, h1, if_false]; rw [if_neg (by omega)]

/-- The delay line after `m` samples of a pass that found `old` in it. -/
def lineAfter (x : Nat → Sample) (L m : Nat) (old : Nat → Sample) (k : Nat) : Sample :=
  if k < L then (if m = 0 then 0#16 else delayAt x (m - 1) k) else old k

theorem lineAfter_shift {x : Nat → Sample} {L n : Nat} (hL : 0 < L) {old : Nat → Sample} {t : Buf Sample}
    (h : ∀ k, bufGet 0#16 t k = lineAfter x L n old k) (k : Nat) :
    bufGet 0#16 (shiftIn L (x n) t) k = lineAfter x L (n + 1) old k := by
  rw [bufGet_shiftIn hL, h, h]
  unfold lineAfter delayAt
  by_cases hk0 : k = 0
  · subst hk0; simp [hL]
  · by_cases hk : k < L
    · have hk1 : k - 1 < L := by omega
      simp only [hk0, hk, hk1, if_true, if_false, Nat.add_sub_cancel, Nat.succ_ne_zero]
      by_cases hn : n = 0
      · subst hn; simp [hk0]
      · by_cases hkn : k ≤ n
        · simp only [hn, if_false, if_pos hkn, if_pos (show k - 1 ≤ n - 1 by omega)]
          congr 1; omega
        · simp only [hn, if_false, if_neg hkn, if_neg (show ¬ k - 1 ≤ n - 1 by omega)]
    · simp [hk0, hk]

/-- Tap `k` of the line once sample `n` is in. -/
theorem lineAfter_succ {x : Nat → Sample} {L n k : Nat} (hk : k < L) (old : Nat → Sample) :
    lineAfter x L (n + 1) old k = delayAt x n k := by simp [lineAfter, hk]

theorem lineAfter_zero (x : Nat → Sample) (L : Nat) (t : Buf Sample) (k : Nat) :
    bufGet 0#16 (bufClear L t) k = lineAfter x L 0 (fun k => bufGet 0#16 t k) k := by
  simp [lineAfter]

/-! ### ESTIMATE -/

/-- One inner loop of the estimate pass: the sum over the first `c` taps, nothing else but the sequencer. -/
theorem estTaps_eq (F : NumOps α) (n c : Nat) (d : Datapath α) :
    ((List.range c).foldl (estTap F n) d) =
      { d with
        acc := (List.range c).foldl
          (fun acc k => F.add acc (F.mul (bufGet F.zero d.wmem k) (F.cvt (bufGet 0#16 d.tdl k)))) d.acc
        seqr := if c = 0 then d.seqr else seqrAt .est n c } := by
  induction c with
  | zero => rfl
  | succ c ih => simp [List.range_succ, ih, estTap]

theorem convAt_congr (F : NumOps α) {w w' : Nat → α} {x x' : Nat → Sample} {L n : Nat} (hw : ∀ k < L, w k = w' k)
    (hx : ∀ k ≤ n, x k = x' k) : convAt F w x L n = convAt F w' x' L n := by
  unfold convAt
  induction L with
  | zero => rfl
  | succ L ih =>
    simp only [List.range_succ, List.foldl_append, List.foldl_cons, List.foldl_nil]
    rw [ih (fun k hk => hw k (by omega)), hw L (by omega)]
    have : delayAt x n L = delayAt x' n L := by
      unfold delayAt; split
      · exact hx _ (by omega)
      · rfl
    rw [this]

/-- What one sample of the estimate pass does: `y[n]`, the line, the frame. -/
theorem estSample_spec [DecidableEq α] (F : NumOps α) {L : Nat} (hL : 0 < L) (x old : Nat → Sample) (n : Nat)
    (d : Datapath α) (hline : ∀ k, bufGet 0#16 d.tdl k = lineAfter x L n old k) :
    let r := estSample F L x n d
    let y := convAt F (bufGet F.zero d.wmem) x L n
    (∀ k, bufGet 0#16 r.1.tdl k = lineAfter x L (n + 1) old k) ∧ r.1.acc = y
      ∧ r.1.ybuf = bufSet F.zero d.ybuf n y
      ∧ r.1.g = d.g ∧ r.1.wmem = d.wmem ∧ r.1.ebuf = d.ebuf ∧ r.1.obuf = d.obuf
      ∧ r.2 = if F.finite y then none else some { n := n, k := 0 } := by
  have hsh := lineAfter_shift (n := n) hL hline
  have hy : (List.range L).foldl (fun acc k => F.add acc (F.mul (bufGet F.zero d.wmem k)
      (F.cvt (bufGet 0#16 (shiftIn L (x n) d.tdl) k)))) F.zero = convAt F (bufGet F.zero d.wmem) x L n := by
    unfold convAt
    apply List.foldl_ext
    intro acc k hk
    rw [hsh, lineAfter_succ (List.mem_range.1 hk)]
  simp only [estSample, estTaps_eq, hy]
  by_cases hf : F.finite (convAt F (bufGet F.zero d.wmem) x L n) <;> simp [hf, hsh]

/-- The estimate pass has done `m` samples without anomaly, from `d`. -/
structure EstUpTo [DecidableEq α] (F : NumOps α) (L : Nat) (x : Nat → Sample) (d : Datapath α) (m : Nat)
    (d' : Datapath α) : Prop where
  line : ∀ k, bufGet 0#16 d'.tdl k = lineAfter x L m (fun k => bufGet 0#16 d.tdl k) k
  ybuf : ∀ j, bufGet F.zero d'.ybuf j =
    if j < m then convAt F (bufGet F.zero d.wmem) x L j else bufGet F.zero d.ybuf j
  g : d'.g = d.g
  wmem : d'.wmem = d.wmem
  ebuf : d'.ebuf = d.ebuf
  obuf : d'.obuf = d.obuf

/-- The estimate pass: all `N` samples with finite sums, or ended by the first sum that is not finite (R147, R150). -/
theorem estPass_spec [DecidableEq α] (F : NumOps α) (N : Nat) {L : Nat} (hL : 0 < L) (x : Nat → Sample)
    (d : Datapath α) :
    let r := estPass F N L x d
    let y := convAt F (bufGet F.zero d.wmem) x L
    (r.2 = none → EstUpTo F L x d N r.1 ∧ ∀ m < N, F.finite (y m) = true) ∧
      ∀ e, r.2 = some e → e.k = 0 ∧ e.n < N ∧ EstUpTo F L x d (e.n + 1) r.1 ∧ (∀ m < e.n, F.finite (y m) = true)
        ∧ F.finite (y e.n) = false := by
  intro r y
  have step : ∀ n d', EstUpTo F L x d n d' → EstUpTo F L x d (n + 1) (estSample F L x n d').1 ∧
      (estSample F L x n d').2 = if F.finite (y n) then none else some { n := n, k := 0 } := by
    intro n d' h
    obtain ⟨h1, -, h3, h4, h5, h6, h7, h8⟩ := estSample_spec F hL x _ n d' h.line
    rw [h.wmem] at h3 h8
    refine ⟨⟨h1, ?_, h4.trans h.g, h5.trans h.wmem, h6.trans h.ebuf, h7.trans h.obuf⟩, h8⟩
    intro j
    rw [h3, bufGet_bufSet, h.ybuf]
    by_cases hj : j = n
    · subst hj; simp
    · rw [if_neg hj]
      by_cases hlt : j < n
      · rw [if_pos hlt, if_pos (by omega)]
      · rw [if_neg hlt, if_neg (by omega)]
  have h0 : EstUpTo F L x d 0 (startPass .est L d) :=
    ⟨fun k => lineAfter_zero x L d.tdl k, by simp [startPass], rfl, rfl, rfl, rfl⟩
  have key := loopUntil_ind (estSample F L x)
    (fun n d' => EstUpTo F L x d n d' ∧ ∀ m < n, F.finite (y m) = true)
    (fun e d' => e.k = 0 ∧ e.n < N ∧ EstUpTo F L x d (e.n + 1) d' ∧ (∀ m < e.n, F.finite (y m) = true)
      ∧ F.finite (y e.n) = false) N 0 (startPass .est L d) ⟨h0, by simp⟩ (by
      intro n d' _ hn ⟨hE, hfin⟩
      obtain ⟨hE', h2⟩ := step n d' hE
      by_cases hf : F.finite (y n) = true
      · rw [if_pos hf] at h2
        refine ⟨fun _ => ⟨hE', fun m hm => ?_⟩, fun e he => by rw [h2] at he; cases he⟩
        rcases Nat.lt_succ_iff_lt_or_eq.1 hm with h | rfl
        · exact hfin m h
        · exact hf
      · rw [if_neg hf] at h2
        refine ⟨fun h => (by rw [h2] at h; cases h), fun e he => ?_⟩
        rw [h2] at he; cases he
        exact ⟨rfl, by simpa using hn, hE', hfin, by simpa using hf⟩)
  rw [Nat.zero_add] at key
  exact key

/-! ### RESIDUAL -/

/-- The residual step has done `m` samples without anomaly, from `d`; `mo` of them have their 16-bit output. -/
structure ResUpTo [DecidableEq α] (F : NumOps α) (src : Nat → Sample) (d : Datapath α) (m mo : Nat)
    (d' : Datapath α) : Prop where
  ebuf : ∀ j, bufGet F.zero d'.ebuf j =
    if j < m then residualAt F src (bufGet F.zero d.ybuf) j else bufGet F.zero d.ebuf j
  obuf : ∀ j, bufGet 0#16 d'.obuf j =
    if j < mo then F.q16 (residualAt F src (bufGet F.zero d.ybuf) j) else bufGet 0#16 d.obuf j
  tdl : d'.tdl = d.tdl
  acc : d'.acc = d.acc
  g : d'.g = d.g
  wmem : d'.wmem = d.wmem
  ybuf : d'.ybuf = d.ybuf

/-- The residual step: all `N` samples with finite errors, or ended by the first that is not finite (R156, R159). -/
theorem resPass_spec [DecidableEq α] (F : NumOps α) (N : Nat) (src : Nat → Sample) (d : Datapath α) :
    let r := resPass F N src d
    let v := residualAt F src (bufGet F.zero d.ybuf)
    (r.2 = none → ResUpTo F src d N N r.1 ∧ ∀ m < N, F.finite (v m) = true) ∧
      ∀ e, r.2 = some e → e.k = 0 ∧ e.n < N ∧ ResUpTo F src d (e.n + 1) e.n r.1
        ∧ (∀ m < e.n, F.finite (v m) = true) ∧ F.finite (v e.n) = false := by
  intro r v
  have h0 : ResUpTo F src d 0 0 { d with seqr := seqrAt .res 0 0 } :=
    ⟨by simp, by simp, rfl, rfl, rfl, rfl, rfl⟩
  have key := loopUntil_ind (resSample F src)
    (fun n d' => ResUpTo F src d n n d' ∧ ∀ m < n, F.finite (v m) = true)
    (fun e d' => e.k = 0 ∧ e.n < N ∧ ResUpTo F src d (e.n + 1) e.n d' ∧ (∀ m < e.n, F.finite (v m) = true)
      ∧ F.finite (v e.n) = false) N 0 { d with seqr := seqrAt .res 0 0 } ⟨h0, by simp⟩ (by
      intro n d' _ hn ⟨hR, hfin⟩
      have hv : F.sub (F.cvt (src n)) (bufGet F.zero d'.ybuf n) = v n := by rw [hR.ybuf]; rfl
      have hE : ∀ j, bufGet F.zero (bufSet F.zero d'.ebuf n (v n)) j =
          if j < n + 1 then v j else bufGet F.zero d.ebuf j := by
        intro j
        rw [bufGet_bufSet, hR.ebuf]
        by_cases hj : j = n
        · subst hj; simp
        · rw [if_neg hj]
          by_cases hlt : j < n
          · rw [if_pos hlt, if_pos (by omega)]
          · rw [if_neg hlt, if_neg (by omega)]
      by_cases hf : F.finite (v n) = true
      · have hs : resSample F src n d' = ({ d' with
            ebuf := bufSet F.zero d'.ebuf n (v n), obuf := bufSet 0#16 d'.obuf n (F.q16 (v n)),
            seqr := seqrAt .res (n + 1) 0 }, none) := by simp [resSample, hv, hf]
        rw [hs]
        refine ⟨fun _ => ⟨⟨hE, ?_, hR.tdl, hR.acc, hR.g, hR.wmem, hR.ybuf⟩, fun m hm => ?_⟩, by simp⟩
        · intro j
          rw [bufGet_bufSet, hR.obuf]
          by_cases hj : j = n
          · subst hj; simp [v]
          · rw [if_neg hj]
            by_cases hlt : j < n
            · rw [if_pos hlt, if_pos (by omega)]
            · rw [if_neg hlt, if_neg (by omega)]
        · rcases Nat.lt_succ_iff_lt_or_eq.1 hm with h | rfl
          · exact hfin m h
          · exact hf
      · have hs : resSample F src n d' = ({ d' with ebuf := bufSet F.zero d'.ebuf n (v n) },
            some { n := n, k := 0 }) := by simp [resSample, hv, hf]
        rw [hs]
        refine ⟨by simp, fun e he => ?_⟩
        cases he
        exact ⟨rfl, by simpa using hn, ⟨hE, hR.obuf, hR.tdl, hR.acc, hR.g, hR.wmem, hR.ybuf⟩, hfin, by simpa using hf⟩)
  rw [Nat.zero_add] at key
  exact key

/-! ### ADAPT -/

theorem coeffAt_succ (F : NumOps α) (mu : α) (e : Nat → α) (x : Nat → Sample) (k n : Nat) (w0 : α) :
    coeffAt F mu e x k (n + 1) w0 =
      F.add (coeffAt F mu e x k n w0) (F.mul (F.mul mu (e n)) (F.cvt (delayAt x n k))) := by
  simp [coeffAt, List.range_succ]

/-- The adapt pass has applied `n` samples to every tap and sample `n` to the taps below `c`, from `d`; `m` samples have been
shifted into the line. -/
structure AdpUpTo [DecidableEq α] (F : NumOps α) (mu : α) (L : Nat) (x : Nat → Sample) (d : Datapath α) (n c m : Nat)
    (d' : Datapath α) : Prop where
  line : ∀ k, bufGet 0#16 d'.tdl k = lineAfter x L m (fun k => bufGet 0#16 d.tdl k) k
  wmem : ∀ k, bufGet F.zero d'.wmem k =
    if k < L then coeffAt F mu (bufGet F.zero d.ebuf) x k (if k < c then n + 1 else n) (bufGet F.zero d.wmem k)
    else bufGet F.zero d.wmem k
  acc : d'.acc = d.acc
  ybuf : d'.ybuf = d.ybuf
  ebuf : d'.ebuf = d.ebuf
  obuf : d'.obuf = d.obuf

/-- The adapt pass: all N·L updates finite, or ended by the first that is not, in the order n, then k (R165, R169). -/
theorem adpPass_spec [DecidableEq α] (F : NumOps α) (mu : α) (N : Nat) {L : Nat} (hL : 0 < L) (x : Nat → Sample)
    (d : Datapath α) :
    let r := adpPass F mu N L x d
    let w := fun k n => coeffAt F mu (bufGet F.zero d.ebuf) x k n (bufGet F.zero d.wmem k)
    (r.2 = none → AdpUpTo F mu L x d N 0 N r.1 ∧ ∀ m < N, ∀ j < L, F.finite (w j (m + 1)) = true) ∧
      ∀ e, r.2 = some e → e.n < N ∧ e.k < L ∧ AdpUpTo F mu L x d e.n (e.k + 1) (e.n + 1) r.1
        ∧ (∀ m < e.n, ∀ j < L, F.finite (w j (m + 1)) = true) ∧ (∀ j < e.k, F.finite (w j (e.n + 1)) = true)
        ∧ F.finite (w e.k (e.n + 1)) = false := by
  intro r w
  let A : Nat → Prop := fun n => ∀ m < n, ∀ j < L, F.finite (w j (m + 1)) = true
  let Q : Anomaly → Datapath α → Prop := fun e d' => e.n < N ∧ e.k < L ∧ AdpUpTo F mu L x d e.n (e.k + 1) (e.n + 1) d'
    ∧ A e.n ∧ (∀ j < e.k, F.finite (w j (e.n + 1)) = true) ∧ F.finite (w e.k (e.n + 1)) = false
  have inner : ∀ n < N, A n → ∀ d1 : Datapath α, AdpUpTo F mu L x d n 0 (n + 1) d1 →
      d1.g = F.mul mu (bufGet F.zero d.ebuf n) →
      ((loopUntil (adpTap F n) 0 L d1).2 = none →
        AdpUpTo F mu L x d n L (n + 1) (loopUntil (adpTap F n) 0 L d1).1 ∧ A (n + 1)) ∧
      ∀ e, (loopUntil (adpTap F n) 0 L d1).2 = some e → Q e (loopUntil (adpTap F n) 0 L d1).1 := by
    intro n hn hA d1 h1 hg
    have key := loopUntil_ind (adpTap F n)
      (fun c d' => AdpUpTo F mu L x d n c (n + 1) d' ∧ d'.g = F.mul mu (bufGet F.zero d.ebuf n) ∧
        ∀ j < c, F.finite (w j (n + 1)) = true) Q L 0 d1 ⟨h1, hg, by simp⟩ (by
        intro k d' _ hk ⟨hU, hg', hfin⟩
        have hkL : k < L := by simpa using hk
        have hv : F.add (bufGet F.zero d'.wmem k) (F.mul d'.g (F.cvt (bufGet 0#16 d'.tdl k))) = w k (n + 1) := by
          rw [hU.wmem, if_pos hkL, if_neg (lt_irrefl k), hg', hU.line, lineAfter_succ hkL]
          exact (coeffAt_succ F mu _ x k n _).symm
        have hU' : AdpUpTo F mu L x d n (k + 1) (n + 1)
            { d' with wmem := bufSet F.zero d'.wmem k (w k (n + 1)), seqr := seqrAt .adp n (k + 1) } := by
          refine ⟨hU.line, ?_, hU.acc, hU.ybuf, hU.ebuf, hU.obuf⟩
          intro j
          rw [bufGet_bufSet, hU.wmem]
          by_cases hj : j = k
          · subst hj; simp [hkL, w]
          · rw [if_neg hj]
            have : (j < k + 1) = (j < k) := by apply propext; omega
            simp only [this]
        by_cases hf : F.finite (w k (n + 1)) = true
        · have hs : adpTap F n k d' = ({ d' with
              wmem := bufSet F.zero d'.wmem k (w k (n + 1)), seqr := seqrAt .adp n (k + 1) }, none) := by
            simp [adpTap, hv, hf]
          rw [hs]
          refine ⟨fun _ => ⟨hU', hg', fun j hj => ?_⟩, by simp⟩
          rcases Nat.lt_succ_iff_lt_or_eq.1 hj with h | rfl
          · exact hfin j h
          · exact hf
        · have hs : adpTap F n k d' = ({ d' with
              wmem := bufSet F.zero d'.wmem k (w k (n + 1)), seqr := seqrAt .adp n (k + 1) },
              some { n := n, k := k }) := by simp [adpTap, hv, hf]
          rw [hs]
          refine ⟨by simp, fun e he => ?_⟩
          cases he
          exact ⟨hn, hkL, hU', hA, hfin, by simpa using hf⟩)
    refine ⟨fun h => ?_, key.2⟩
    obtain ⟨hU, -, hfin⟩ := key.1 h
    rw [Nat.zero_add] at hU
    refine ⟨hU, fun m hm j hj => ?_⟩
    rcases Nat.lt_succ_iff_lt_or_eq.1 hm with h | rfl
    · exact hA m h j hj
    · exact hfin j (by simpa using hj)
  have sample : ∀ n < N, ∀ d', AdpUpTo F mu L x d n 0 n d' → A n →
      ((adpSample F mu L x n d').2 = none →
        AdpUpTo F mu L x d (n + 1) 0 (n + 1) (adpSample F mu L x n d').1 ∧ A (n + 1)) ∧
      ∀ e, (adpSample F mu L x n d').2 = some e → Q e (adpSample F mu L x n d').1 := by
    intro n hn d' hU hA
    let d1 : Datapath α := { d' with tdl := shiftIn L (x n) d'.tdl, g := F.mul mu (bufGet F.zero d'.ebuf n) }
    have h1 : AdpUpTo F mu L x d n 0 (n + 1) d1 :=
      ⟨lineAfter_shift hL hU.line, hU.wmem, hU.acc, hU.ybuf, hU.ebuf, hU.obuf⟩
    have hg : d1.g = F.mul mu (bufGet F.zero d.ebuf n) := by simp [d1, hU.ebuf]
    obtain ⟨k1, k2⟩ := inner n hn hA d1 h1 hg
    rcases hl : loopUntil (adpTap F n) 0 L d1 with ⟨d2, _ | e⟩
    · have hs : adpSample F mu L x n d' = ({ d2 with seqr := seqrAt .adp (n + 1) 0 }, none) := by
        simp only [adpSample]; rw [show loopUntil (adpTap F n) 0 L _ = (d2, none) from hl]
      rw [hl] at k1
      obtain ⟨hU2, hA2⟩ := k1 rfl
      rw [hs]
      refine ⟨fun _ => ⟨⟨hU2.line, ?_, hU2.acc, hU2.ybuf, hU2.ebuf, hU2.obuf⟩, hA2⟩, by simp⟩
      intro j
      show bufGet F.zero d2.wmem j = _
      rw [hU2.wmem]
      by_cases hj : j < L <;> simp [hj]
    · have hs : adpSample F mu L x n d' = (d2, some e) := by
        simp only [adpSample]; rw [show loopUntil (adpTap F n) 0 L _ = (d2, some e) from hl]
      rw [hl] at k2
      rw [hs]
      exact ⟨by simp, k2⟩
  have h0 : AdpUpTo F mu L x d 0 0 0 (startPass .adp L d) :=
    ⟨fun k => lineAfter_zero x L d.tdl k, by simp [startPass, coeffAt], rfl, rfl, rfl, rfl⟩
  have key := loopUntil_ind (adpSample F mu L x) (fun n d' => AdpUpTo F mu L x d n 0 n d' ∧ A n) Q N 0
    (startPass .adp L d) ⟨h0, by simp [A]⟩ (by
      intro n d' _ hn ⟨hU, hA⟩
      exact sample n (by simpa using hn) d' hU hA)
  rw [Nat.zero_add] at key
  exact key

end Sys2Proof.Machine
end

