-- ==== Sys2Proof/Laws/State.lean ====
section
/-! SUPPORT. What each named update of the state does to each field, once: the lemmas that later proofs rewrite with, so that
none of them unfolds a record update. -/

namespace Sys2Proof.Machine

/-! ### `respond` -/

@[simp] theorem respond_capN (r : Response) (s : State) : (respond r s).capN = s.capN := rfl
@[simp] theorem respond_capL (r : Response) (s : State) : (respond r s).capL = s.capL := rfl
@[simp] theorem respond_capFmt (r : Response) (s : State) : (respond r s).capFmt = s.capFmt := rfl
@[simp] theorem respond_cfgN (r : Response) (s : State) : (respond r s).cfgN = s.cfgN := rfl
@[simp] theorem respond_cfgL (r : Response) (s : State) : (respond r s).cfgL = s.cfgL := rfl
@[simp] theorem respond_cfgMuLo (r : Response) (s : State) : (respond r s).cfgMuLo = s.cfgMuLo := rfl
@[simp] theorem respond_cfgMuHi (r : Response) (s : State) : (respond r s).cfgMuHi = s.cfgMuHi := rfl
@[simp] theorem respond_st (r : Response) (s : State) : (respond r s).st = s.st := rfl
@[simp] theorem respond_busy (r : Response) (s : State) : (respond r s).busy = s.busy := rfl
@[simp] theorem respond_err (r : Response) (s : State) : (respond r s).err = s.err := rfl
@[simp] theorem respond_yFresh (r : Response) (s : State) : (respond r s).yFresh = s.yFresh := rfl
@[simp] theorem respond_eFresh (r : Response) (s : State) : (respond r s).eFresh = s.eFresh := rfl
@[simp] theorem respond_eRef (r : Response) (s : State) : (respond r s).eRef = s.eRef := rfl
@[simp] theorem respond_cause (r : Response) (s : State) : (respond r s).cause = s.cause := rfl
@[simp] theorem respond_einfo (r : Response) (s : State) : (respond r s).einfo = s.einfo := rfl
@[simp] theorem respond_seq (r : Response) (s : State) : (respond r s).seq = s.seq := rfl
@[simp] theorem respond_irqEn (r : Response) (s : State) : (respond r s).irqEn = s.irqEn := rfl
@[simp] theorem respond_irqPend (r : Response) (s : State) : (respond r s).irqPend = s.irqPend := rfl
@[simp] theorem respond_xbuf (r : Response) (s : State) : (respond r s).xbuf = s.xbuf := rfl
@[simp] theorem respond_dbuf (r : Response) (s : State) : (respond r s).dbuf = s.dbuf := rfl
@[simp] theorem respond_obuf (r : Response) (s : State) : (respond r s).obuf = s.obuf := rfl
@[simp] theorem respond_wmem (r : Response) (s : State) : (respond r s).wmem = s.wmem := rfl
@[simp] theorem respond_ybuf (r : Response) (s : State) : (respond r s).ybuf = s.ybuf := rfl
@[simp] theorem respond_ebuf (r : Response) (s : State) : (respond r s).ebuf = s.ebuf := rfl
@[simp] theorem respond_tdl (r : Response) (s : State) : (respond r s).tdl = s.tdl := rfl
@[simp] theorem respond_acc (r : Response) (s : State) : (respond r s).acc = s.acc := rfl
@[simp] theorem respond_g (r : Response) (s : State) : (respond r s).g = s.g := rfl
@[simp] theorem respond_pend (r : Response) (s : State) : (respond r s).pend = s.pend := rfl
@[simp] theorem respond_seqr (r : Response) (s : State) : (respond r s).seqr = s.seqr := rfl
@[simp] theorem respond_freeCount (r : Response) (s : State) : (respond r s).freeCount = s.freeCount := rfl
@[simp] theorem respond_inputs (r : Response) (s : State) : (respond r s).inputs = s.inputs := rfl
@[simp] theorem respond_resps (r : Response) (s : State) : (respond r s).resps = r :: s.resps := rfl

/-! ### `acceptCommand` -/

@[simp] theorem acceptCommand_capN (c : Word) (s : State) : (acceptCommand c s).capN = s.capN := rfl
@[simp] theorem acceptCommand_capL (c : Word) (s : State) : (acceptCommand c s).capL = s.capL := rfl
@[simp] theorem acceptCommand_capFmt (c : Word) (s : State) : (acceptCommand c s).capFmt = s.capFmt := rfl
@[simp] theorem acceptCommand_cfgN (c : Word) (s : State) : (acceptCommand c s).cfgN = s.cfgN := rfl
@[simp] theorem acceptCommand_cfgL (c : Word) (s : State) : (acceptCommand c s).cfgL = s.cfgL := rfl
@[simp] theorem acceptCommand_cfgMuLo (c : Word) (s : State) : (acceptCommand c s).cfgMuLo = s.cfgMuLo := rfl
@[simp] theorem acceptCommand_cfgMuHi (c : Word) (s : State) : (acceptCommand c s).cfgMuHi = s.cfgMuHi := rfl
@[simp] theorem acceptCommand_st (c : Word) (s : State) : (acceptCommand c s).st = s.st := rfl
@[simp] theorem acceptCommand_busy (c : Word) (s : State) : (acceptCommand c s).busy = true := rfl
@[simp] theorem acceptCommand_err (c : Word) (s : State) : (acceptCommand c s).err = s.err := rfl
@[simp] theorem acceptCommand_yFresh (c : Word) (s : State) : (acceptCommand c s).yFresh = s.yFresh := rfl
@[simp] theorem acceptCommand_eFresh (c : Word) (s : State) : (acceptCommand c s).eFresh = s.eFresh := rfl
@[simp] theorem acceptCommand_eRef (c : Word) (s : State) : (acceptCommand c s).eRef = s.eRef := rfl
@[simp] theorem acceptCommand_cause (c : Word) (s : State) : (acceptCommand c s).cause = s.cause := rfl
@[simp] theorem acceptCommand_einfo (c : Word) (s : State) : (acceptCommand c s).einfo = s.einfo := rfl
@[simp] theorem acceptCommand_seq (c : Word) (s : State) : (acceptCommand c s).seq = s.seq := rfl
@[simp] theorem acceptCommand_irqEn (c : Word) (s : State) : (acceptCommand c s).irqEn = s.irqEn := rfl
@[simp] theorem acceptCommand_irqPend (c : Word) (s : State) : (acceptCommand c s).irqPend = s.irqPend := rfl
@[simp] theorem acceptCommand_xbuf (c : Word) (s : State) : (acceptCommand c s).xbuf = s.xbuf := rfl
@[simp] theorem acceptCommand_dbuf (c : Word) (s : State) : (acceptCommand c s).dbuf = s.dbuf := rfl
@[simp] theorem acceptCommand_obuf (c : Word) (s : State) : (acceptCommand c s).obuf = s.obuf := rfl
@[simp] theorem acceptCommand_wmem (c : Word) (s : State) : (acceptCommand c s).wmem = s.wmem := rfl
@[simp] theorem acceptCommand_ybuf (c : Word) (s : State) : (acceptCommand c s).ybuf = s.ybuf := rfl
@[simp] theorem acceptCommand_ebuf (c : Word) (s : State) : (acceptCommand c s).ebuf = s.ebuf := rfl
@[simp] theorem acceptCommand_tdl (c : Word) (s : State) : (acceptCommand c s).tdl = s.tdl := rfl
@[simp] theorem acceptCommand_acc (c : Word) (s : State) : (acceptCommand c s).acc = s.acc := rfl
@[simp] theorem acceptCommand_g (c : Word) (s : State) : (acceptCommand c s).g = s.g := rfl
@[simp] theorem acceptCommand_pend (c : Word) (s : State) : (acceptCommand c s).pend = c := rfl
@[simp] theorem acceptCommand_seqr (c : Word) (s : State) : (acceptCommand c s).seqr = s.seqr := rfl
@[simp] theorem acceptCommand_freeCount (c : Word) (s : State) : (acceptCommand c s).freeCount = s.freeCount := rfl
@[simp] theorem acceptCommand_inputs (c : Word) (s : State) : (acceptCommand c s).inputs = s.inputs := rfl
@[simp] theorem acceptCommand_resps (c : Word) (s : State) : (acceptCommand c s).resps = s.resps := rfl

/-! ### `clearError` -/

@[simp] theorem clearError_capN (s : State) : (clearError s).capN = s.capN := rfl
@[simp] theorem clearError_capL (s : State) : (clearError s).capL = s.capL := rfl
@[simp] theorem clearError_capFmt (s : State) : (clearError s).capFmt = s.capFmt := rfl
@[simp] theorem clearError_cfgN (s : State) : (clearError s).cfgN = s.cfgN := rfl
@[simp] theorem clearError_cfgL (s : State) : (clearError s).cfgL = s.cfgL := rfl
@[simp] theorem clearError_cfgMuLo (s : State) : (clearError s).cfgMuLo = s.cfgMuLo := rfl
@[simp] theorem clearError_cfgMuHi (s : State) : (clearError s).cfgMuHi = s.cfgMuHi := rfl
@[simp] theorem clearError_st (s : State) : (clearError s).st = s.st := rfl
@[simp] theorem clearError_busy (s : State) : (clearError s).busy = s.busy := rfl
@[simp] theorem clearError_err (s : State) : (clearError s).err = false := rfl
@[simp] theorem clearError_yFresh (s : State) : (clearError s).yFresh = s.yFresh := rfl
@[simp] theorem clearError_eFresh (s : State) : (clearError s).eFresh = s.eFresh := rfl
@[simp] theorem clearError_eRef (s : State) : (clearError s).eRef = s.eRef := rfl
@[simp] theorem clearError_cause (s : State) : (clearError s).cause = .none := rfl
@[simp] theorem clearError_einfo (s : State) : (clearError s).einfo = 0#32 := rfl
@[simp] theorem clearError_seq (s : State) : (clearError s).seq = s.seq := rfl
@[simp] theorem clearError_irqEn (s : State) : (clearError s).irqEn = s.irqEn := rfl
@[simp] theorem clearError_irqPend (s : State) : (clearError s).irqPend = s.irqPend := rfl
@[simp] theorem clearError_xbuf (s : State) : (clearError s).xbuf = s.xbuf := rfl
@[simp] theorem clearError_dbuf (s : State) : (clearError s).dbuf = s.dbuf := rfl
@[simp] theorem clearError_obuf (s : State) : (clearError s).obuf = s.obuf := rfl
@[simp] theorem clearError_wmem (s : State) : (clearError s).wmem = s.wmem := rfl
@[simp] theorem clearError_ybuf (s : State) : (clearError s).ybuf = s.ybuf := rfl
@[simp] theorem clearError_ebuf (s : State) : (clearError s).ebuf = s.ebuf := rfl
@[simp] theorem clearError_tdl (s : State) : (clearError s).tdl = s.tdl := rfl
@[simp] theorem clearError_acc (s : State) : (clearError s).acc = s.acc := rfl
@[simp] theorem clearError_g (s : State) : (clearError s).g = s.g := rfl
@[simp] theorem clearError_pend (s : State) : (clearError s).pend = s.pend := rfl
@[simp] theorem clearError_seqr (s : State) : (clearError s).seqr = s.seqr := rfl
@[simp] theorem clearError_freeCount (s : State) : (clearError s).freeCount = s.freeCount := rfl
@[simp] theorem clearError_inputs (s : State) : (clearError s).inputs = s.inputs := rfl
@[simp] theorem clearError_resps (s : State) : (clearError s).resps = s.resps := rfl

/-! ### `clearFresh` -/

@[simp] theorem clearFresh_capN (s : State) : (clearFresh s).capN = s.capN := rfl
@[simp] theorem clearFresh_capL (s : State) : (clearFresh s).capL = s.capL := rfl
@[simp] theorem clearFresh_capFmt (s : State) : (clearFresh s).capFmt = s.capFmt := rfl
@[simp] theorem clearFresh_cfgN (s : State) : (clearFresh s).cfgN = s.cfgN := rfl
@[simp] theorem clearFresh_cfgL (s : State) : (clearFresh s).cfgL = s.cfgL := rfl
@[simp] theorem clearFresh_cfgMuLo (s : State) : (clearFresh s).cfgMuLo = s.cfgMuLo := rfl
@[simp] theorem clearFresh_cfgMuHi (s : State) : (clearFresh s).cfgMuHi = s.cfgMuHi := rfl
@[simp] theorem clearFresh_st (s : State) : (clearFresh s).st = s.st := rfl
@[simp] theorem clearFresh_busy (s : State) : (clearFresh s).busy = s.busy := rfl
@[simp] theorem clearFresh_err (s : State) : (clearFresh s).err = s.err := rfl
@[simp] theorem clearFresh_yFresh (s : State) : (clearFresh s).yFresh = false := rfl
@[simp] theorem clearFresh_eFresh (s : State) : (clearFresh s).eFresh = false := rfl
@[simp] theorem clearFresh_eRef (s : State) : (clearFresh s).eRef = s.eRef := rfl
@[simp] theorem clearFresh_cause (s : State) : (clearFresh s).cause = s.cause := rfl
@[simp] theorem clearFresh_einfo (s : State) : (clearFresh s).einfo = s.einfo := rfl
@[simp] theorem clearFresh_seq (s : State) : (clearFresh s).seq = s.seq := rfl
@[simp] theorem clearFresh_irqEn (s : State) : (clearFresh s).irqEn = s.irqEn := rfl
@[simp] theorem clearFresh_irqPend (s : State) : (clearFresh s).irqPend = s.irqPend := rfl
@[simp] theorem clearFresh_xbuf (s : State) : (clearFresh s).xbuf = s.xbuf := rfl
@[simp] theorem clearFresh_dbuf (s : State) : (clearFresh s).dbuf = s.dbuf := rfl
@[simp] theorem clearFresh_obuf (s : State) : (clearFresh s).obuf = s.obuf := rfl
@[simp] theorem clearFresh_wmem (s : State) : (clearFresh s).wmem = s.wmem := rfl
@[simp] theorem clearFresh_ybuf (s : State) : (clearFresh s).ybuf = s.ybuf := rfl
@[simp] theorem clearFresh_ebuf (s : State) : (clearFresh s).ebuf = s.ebuf := rfl
@[simp] theorem clearFresh_tdl (s : State) : (clearFresh s).tdl = s.tdl := rfl
@[simp] theorem clearFresh_acc (s : State) : (clearFresh s).acc = s.acc := rfl
@[simp] theorem clearFresh_g (s : State) : (clearFresh s).g = s.g := rfl
@[simp] theorem clearFresh_pend (s : State) : (clearFresh s).pend = s.pend := rfl
@[simp] theorem clearFresh_seqr (s : State) : (clearFresh s).seqr = s.seqr := rfl
@[simp] theorem clearFresh_freeCount (s : State) : (clearFresh s).freeCount = s.freeCount := rfl
@[simp] theorem clearFresh_inputs (s : State) : (clearFresh s).inputs = s.inputs := rfl
@[simp] theorem clearFresh_resps (s : State) : (clearFresh s).resps = s.resps := rfl

/-! ### `freeRegisters` -/

@[simp] theorem freeRegisters_capN (s : State) : (freeRegisters s).capN = s.capN := rfl
@[simp] theorem freeRegisters_capL (s : State) : (freeRegisters s).capL = s.capL := rfl
@[simp] theorem freeRegisters_capFmt (s : State) : (freeRegisters s).capFmt = s.capFmt := rfl
@[simp] theorem freeRegisters_cfgN (s : State) : (freeRegisters s).cfgN = s.cfgN := rfl
@[simp] theorem freeRegisters_cfgL (s : State) : (freeRegisters s).cfgL = s.cfgL := rfl
@[simp] theorem freeRegisters_cfgMuLo (s : State) : (freeRegisters s).cfgMuLo = s.cfgMuLo := rfl
@[simp] theorem freeRegisters_cfgMuHi (s : State) : (freeRegisters s).cfgMuHi = s.cfgMuHi := rfl
@[simp] theorem freeRegisters_st (s : State) : (freeRegisters s).st = s.st := rfl
@[simp] theorem freeRegisters_busy (s : State) : (freeRegisters s).busy = s.busy := rfl
@[simp] theorem freeRegisters_err (s : State) : (freeRegisters s).err = s.err := rfl
@[simp] theorem freeRegisters_yFresh (s : State) : (freeRegisters s).yFresh = s.yFresh := rfl
@[simp] theorem freeRegisters_eFresh (s : State) : (freeRegisters s).eFresh = s.eFresh := rfl
@[simp] theorem freeRegisters_eRef (s : State) : (freeRegisters s).eRef = s.eRef := rfl
@[simp] theorem freeRegisters_cause (s : State) : (freeRegisters s).cause = s.cause := rfl
@[simp] theorem freeRegisters_einfo (s : State) : (freeRegisters s).einfo = s.einfo := rfl
@[simp] theorem freeRegisters_seq (s : State) : (freeRegisters s).seq = s.seq := rfl
@[simp] theorem freeRegisters_irqEn (s : State) : (freeRegisters s).irqEn = s.irqEn := rfl
@[simp] theorem freeRegisters_irqPend (s : State) : (freeRegisters s).irqPend = s.irqPend := rfl
@[simp] theorem freeRegisters_xbuf (s : State) : (freeRegisters s).xbuf = s.xbuf := rfl
@[simp] theorem freeRegisters_dbuf (s : State) : (freeRegisters s).dbuf = s.dbuf := rfl
@[simp] theorem freeRegisters_obuf (s : State) : (freeRegisters s).obuf = s.obuf := rfl
@[simp] theorem freeRegisters_wmem (s : State) : (freeRegisters s).wmem = s.wmem := rfl
@[simp] theorem freeRegisters_ybuf (s : State) : (freeRegisters s).ybuf = s.ybuf := rfl
@[simp] theorem freeRegisters_ebuf (s : State) : (freeRegisters s).ebuf = s.ebuf := rfl
@[simp] theorem freeRegisters_tdl (s : State) : (freeRegisters s).tdl = s.tdl := rfl
@[simp] theorem freeRegisters_acc (s : State) : (freeRegisters s).acc = s.format.dec (Config.freeValue .acc s.freeCount 0) := rfl
@[simp] theorem freeRegisters_g (s : State) : (freeRegisters s).g = s.format.dec (Config.freeValue .g s.freeCount 0) := rfl
@[simp] theorem freeRegisters_pend (s : State) : (freeRegisters s).pend = (Config.freeValue .pend s.freeCount 0).setWidth 32 := rfl
@[simp] theorem freeRegisters_seqr (s : State) : (freeRegisters s).seqr = ⟨.idle, (Config.freeValue .seqN s.freeCount 0).setWidth 14, (Config.freeValue .seqK s.freeCount 0).setWidth 14⟩ := rfl
@[simp] theorem freeRegisters_freeCount (s : State) : (freeRegisters s).freeCount = s.freeCount + 1 := rfl
@[simp] theorem freeRegisters_inputs (s : State) : (freeRegisters s).inputs = s.inputs := rfl
@[simp] theorem freeRegisters_resps (s : State) : (freeRegisters s).resps = s.resps := rfl

/-! ### `completeCommand` -/

@[simp] theorem completeCommand_capN (s : State) : (completeCommand s).capN = s.capN := rfl
@[simp] theorem completeCommand_capL (s : State) : (completeCommand s).capL = s.capL := rfl
@[simp] theorem completeCommand_capFmt (s : State) : (completeCommand s).capFmt = s.capFmt := rfl
@[simp] theorem completeCommand_cfgN (s : State) : (completeCommand s).cfgN = s.cfgN := rfl
@[simp] theorem completeCommand_cfgL (s : State) : (completeCommand s).cfgL = s.cfgL := rfl
@[simp] theorem completeCommand_cfgMuLo (s : State) : (completeCommand s).cfgMuLo = s.cfgMuLo := rfl
@[simp] theorem completeCommand_cfgMuHi (s : State) : (completeCommand s).cfgMuHi = s.cfgMuHi := rfl
@[simp] theorem completeCommand_st (s : State) : (completeCommand s).st = s.st := rfl
@[simp] theorem completeCommand_busy (s : State) : (completeCommand s).busy = false := rfl
@[simp] theorem completeCommand_err (s : State) : (completeCommand s).err = s.err := rfl
@[simp] theorem completeCommand_yFresh (s : State) : (completeCommand s).yFresh = s.yFresh := rfl
@[simp] theorem completeCommand_eFresh (s : State) : (completeCommand s).eFresh = s.eFresh := rfl
@[simp] theorem completeCommand_eRef (s : State) : (completeCommand s).eRef = s.eRef := rfl
@[simp] theorem completeCommand_cause (s : State) : (completeCommand s).cause = s.cause := rfl
@[simp] theorem completeCommand_einfo (s : State) : (completeCommand s).einfo = s.einfo := rfl
@[simp] theorem completeCommand_seq (s : State) : (completeCommand s).seq = s.seq := rfl
@[simp] theorem completeCommand_irqEn (s : State) : (completeCommand s).irqEn = s.irqEn := rfl
@[simp] theorem completeCommand_irqPend (s : State) : (completeCommand s).irqPend = s.irqPend ||| 0b01#2 := rfl
@[simp] theorem completeCommand_xbuf (s : State) : (completeCommand s).xbuf = s.xbuf := rfl
@[simp] theorem completeCommand_dbuf (s : State) : (completeCommand s).dbuf = s.dbuf := rfl
@[simp] theorem completeCommand_obuf (s : State) : (completeCommand s).obuf = s.obuf := rfl
@[simp] theorem completeCommand_wmem (s : State) : (completeCommand s).wmem = s.wmem := rfl
@[simp] theorem completeCommand_ybuf (s : State) : (completeCommand s).ybuf = s.ybuf := rfl
@[simp] theorem completeCommand_ebuf (s : State) : (completeCommand s).ebuf = s.ebuf := rfl
@[simp] theorem completeCommand_tdl (s : State) : (completeCommand s).tdl = s.tdl := rfl
@[simp] theorem completeCommand_acc (s : State) : (completeCommand s).acc = s.format.dec (Config.freeValue .acc s.freeCount 0) := rfl
@[simp] theorem completeCommand_g (s : State) : (completeCommand s).g = s.format.dec (Config.freeValue .g s.freeCount 0) := rfl
@[simp] theorem completeCommand_pend (s : State) : (completeCommand s).pend = (Config.freeValue .pend s.freeCount 0).setWidth 32 := rfl
@[simp] theorem completeCommand_seqr (s : State) : (completeCommand s).seqr = ⟨.idle, (Config.freeValue .seqN s.freeCount 0).setWidth 14, (Config.freeValue .seqK s.freeCount 0).setWidth 14⟩ := rfl
@[simp] theorem completeCommand_freeCount (s : State) : (completeCommand s).freeCount = s.freeCount + 1 := rfl
@[simp] theorem completeCommand_inputs (s : State) : (completeCommand s).inputs = s.inputs := rfl
@[simp] theorem completeCommand_resps (s : State) : (completeCommand s).resps = s.resps := rfl

/-! ### `freeBuffers` -/

@[simp] theorem freeBuffers_capN (s : State) : (freeBuffers s).capN = s.capN := rfl
@[simp] theorem freeBuffers_capL (s : State) : (freeBuffers s).capL = s.capL := rfl
@[simp] theorem freeBuffers_capFmt (s : State) : (freeBuffers s).capFmt = s.capFmt := rfl
@[simp] theorem freeBuffers_cfgN (s : State) : (freeBuffers s).cfgN = s.cfgN := rfl
@[simp] theorem freeBuffers_cfgL (s : State) : (freeBuffers s).cfgL = s.cfgL := rfl
@[simp] theorem freeBuffers_cfgMuLo (s : State) : (freeBuffers s).cfgMuLo = s.cfgMuLo := rfl
@[simp] theorem freeBuffers_cfgMuHi (s : State) : (freeBuffers s).cfgMuHi = s.cfgMuHi := rfl
@[simp] theorem freeBuffers_st (s : State) : (freeBuffers s).st = s.st := rfl
@[simp] theorem freeBuffers_busy (s : State) : (freeBuffers s).busy = s.busy := rfl
@[simp] theorem freeBuffers_err (s : State) : (freeBuffers s).err = s.err := rfl
@[simp] theorem freeBuffers_yFresh (s : State) : (freeBuffers s).yFresh = s.yFresh := rfl
@[simp] theorem freeBuffers_eFresh (s : State) : (freeBuffers s).eFresh = s.eFresh := rfl
@[simp] theorem freeBuffers_eRef (s : State) : (freeBuffers s).eRef = s.eRef := rfl
@[simp] theorem freeBuffers_cause (s : State) : (freeBuffers s).cause = s.cause := rfl
@[simp] theorem freeBuffers_einfo (s : State) : (freeBuffers s).einfo = s.einfo := rfl
@[simp] theorem freeBuffers_seq (s : State) : (freeBuffers s).seq = s.seq := rfl
@[simp] theorem freeBuffers_irqEn (s : State) : (freeBuffers s).irqEn = s.irqEn := rfl
@[simp] theorem freeBuffers_irqPend (s : State) : (freeBuffers s).irqPend = s.irqPend := rfl
@[simp] theorem freeBuffers_xbuf (s : State) : (freeBuffers s).xbuf = bufOf 0#16 s.nmax (fun i => (Config.freeValue .xbuf s.freeCount i).setWidth 16) := rfl
@[simp] theorem freeBuffers_dbuf (s : State) : (freeBuffers s).dbuf = bufOf 0#16 s.nmax (fun i => (Config.freeValue .dbuf s.freeCount i).setWidth 16) := rfl
@[simp] theorem freeBuffers_obuf (s : State) : (freeBuffers s).obuf = bufOf 0#16 s.nmax (fun i => (Config.freeValue .obuf s.freeCount i).setWidth 16) := rfl
@[simp] theorem freeBuffers_wmem (s : State) : (freeBuffers s).wmem = bufOf s.zero s.lmax (fun i => s.format.dec (Config.freeValue .wmem s.freeCount i)) := rfl
@[simp] theorem freeBuffers_ybuf (s : State) : (freeBuffers s).ybuf = bufOf s.zero s.nmax (fun i => s.format.dec (Config.freeValue .ybuf s.freeCount i)) := rfl
@[simp] theorem freeBuffers_ebuf (s : State) : (freeBuffers s).ebuf = bufOf s.zero s.nmax (fun i => s.format.dec (Config.freeValue .ebuf s.freeCount i)) := rfl
@[simp] theorem freeBuffers_tdl (s : State) : (freeBuffers s).tdl = bufOf 0#16 s.lmax (fun i => (Config.freeValue .tdl s.freeCount i).setWidth 16) := rfl
@[simp] theorem freeBuffers_acc (s : State) : (freeBuffers s).acc = s.acc := rfl
@[simp] theorem freeBuffers_g (s : State) : (freeBuffers s).g = s.g := rfl
@[simp] theorem freeBuffers_pend (s : State) : (freeBuffers s).pend = s.pend := rfl
@[simp] theorem freeBuffers_seqr (s : State) : (freeBuffers s).seqr = s.seqr := rfl
@[simp] theorem freeBuffers_freeCount (s : State) : (freeBuffers s).freeCount = s.freeCount + 1 := rfl
@[simp] theorem freeBuffers_inputs (s : State) : (freeBuffers s).inputs = s.inputs := rfl
@[simp] theorem freeBuffers_resps (s : State) : (freeBuffers s).resps = s.resps := rfl

/-! ### `estimateDone` -/

@[simp] theorem estimateDone_capN (s : State) : (estimateDone s).capN = s.capN := rfl
@[simp] theorem estimateDone_capL (s : State) : (estimateDone s).capL = s.capL := rfl
@[simp] theorem estimateDone_capFmt (s : State) : (estimateDone s).capFmt = s.capFmt := rfl
@[simp] theorem estimateDone_cfgN (s : State) : (estimateDone s).cfgN = s.cfgN := rfl
@[simp] theorem estimateDone_cfgL (s : State) : (estimateDone s).cfgL = s.cfgL := rfl
@[simp] theorem estimateDone_cfgMuLo (s : State) : (estimateDone s).cfgMuLo = s.cfgMuLo := rfl
@[simp] theorem estimateDone_cfgMuHi (s : State) : (estimateDone s).cfgMuHi = s.cfgMuHi := rfl
@[simp] theorem estimateDone_st (s : State) : (estimateDone s).st = s.st := rfl
@[simp] theorem estimateDone_busy (s : State) : (estimateDone s).busy = s.busy := rfl
@[simp] theorem estimateDone_err (s : State) : (estimateDone s).err = s.err := rfl
@[simp] theorem estimateDone_yFresh (s : State) : (estimateDone s).yFresh = true := rfl
@[simp] theorem estimateDone_eFresh (s : State) : (estimateDone s).eFresh = false := rfl
@[simp] theorem estimateDone_eRef (s : State) : (estimateDone s).eRef = s.eRef := rfl
@[simp] theorem estimateDone_cause (s : State) : (estimateDone s).cause = s.cause := rfl
@[simp] theorem estimateDone_einfo (s : State) : (estimateDone s).einfo = s.einfo := rfl
@[simp] theorem estimateDone_seq (s : State) : (estimateDone s).seq = s.seq := rfl
@[simp] theorem estimateDone_irqEn (s : State) : (estimateDone s).irqEn = s.irqEn := rfl
@[simp] theorem estimateDone_irqPend (s : State) : (estimateDone s).irqPend = s.irqPend := rfl
@[simp] theorem estimateDone_xbuf (s : State) : (estimateDone s).xbuf = s.xbuf := rfl
@[simp] theorem estimateDone_dbuf (s : State) : (estimateDone s).dbuf = s.dbuf := rfl
@[simp] theorem estimateDone_obuf (s : State) : (estimateDone s).obuf = s.obuf := rfl
@[simp] theorem estimateDone_wmem (s : State) : (estimateDone s).wmem = s.wmem := rfl
@[simp] theorem estimateDone_ybuf (s : State) : (estimateDone s).ybuf = s.ybuf := rfl
@[simp] theorem estimateDone_ebuf (s : State) : (estimateDone s).ebuf = s.ebuf := rfl
@[simp] theorem estimateDone_tdl (s : State) : (estimateDone s).tdl = s.tdl := rfl
@[simp] theorem estimateDone_acc (s : State) : (estimateDone s).acc = s.acc := rfl
@[simp] theorem estimateDone_g (s : State) : (estimateDone s).g = s.g := rfl
@[simp] theorem estimateDone_pend (s : State) : (estimateDone s).pend = s.pend := rfl
@[simp] theorem estimateDone_seqr (s : State) : (estimateDone s).seqr = s.seqr := rfl
@[simp] theorem estimateDone_freeCount (s : State) : (estimateDone s).freeCount = s.freeCount := rfl
@[simp] theorem estimateDone_inputs (s : State) : (estimateDone s).inputs = s.inputs := rfl
@[simp] theorem estimateDone_resps (s : State) : (estimateDone s).resps = s.resps := rfl

/-! ### `residualDone` -/

@[simp] theorem residualDone_capN (ref : Bool) (s : State) : (residualDone ref s).capN = s.capN := rfl
@[simp] theorem residualDone_capL (ref : Bool) (s : State) : (residualDone ref s).capL = s.capL := rfl
@[simp] theorem residualDone_capFmt (ref : Bool) (s : State) : (residualDone ref s).capFmt = s.capFmt := rfl
@[simp] theorem residualDone_cfgN (ref : Bool) (s : State) : (residualDone ref s).cfgN = s.cfgN := rfl
@[simp] theorem residualDone_cfgL (ref : Bool) (s : State) : (residualDone ref s).cfgL = s.cfgL := rfl
@[simp] theorem residualDone_cfgMuLo (ref : Bool) (s : State) : (residualDone ref s).cfgMuLo = s.cfgMuLo := rfl
@[simp] theorem residualDone_cfgMuHi (ref : Bool) (s : State) : (residualDone ref s).cfgMuHi = s.cfgMuHi := rfl
@[simp] theorem residualDone_st (ref : Bool) (s : State) : (residualDone ref s).st = s.st := rfl
@[simp] theorem residualDone_busy (ref : Bool) (s : State) : (residualDone ref s).busy = s.busy := rfl
@[simp] theorem residualDone_err (ref : Bool) (s : State) : (residualDone ref s).err = s.err := rfl
@[simp] theorem residualDone_yFresh (ref : Bool) (s : State) : (residualDone ref s).yFresh = s.yFresh := rfl
@[simp] theorem residualDone_eFresh (ref : Bool) (s : State) : (residualDone ref s).eFresh = true := rfl
@[simp] theorem residualDone_eRef (ref : Bool) (s : State) : (residualDone ref s).eRef = ref := rfl
@[simp] theorem residualDone_cause (ref : Bool) (s : State) : (residualDone ref s).cause = s.cause := rfl
@[simp] theorem residualDone_einfo (ref : Bool) (s : State) : (residualDone ref s).einfo = s.einfo := rfl
@[simp] theorem residualDone_seq (ref : Bool) (s : State) : (residualDone ref s).seq = s.seq := rfl
@[simp] theorem residualDone_irqEn (ref : Bool) (s : State) : (residualDone ref s).irqEn = s.irqEn := rfl
@[simp] theorem residualDone_irqPend (ref : Bool) (s : State) : (residualDone ref s).irqPend = s.irqPend := rfl
@[simp] theorem residualDone_xbuf (ref : Bool) (s : State) : (residualDone ref s).xbuf = s.xbuf := rfl
@[simp] theorem residualDone_dbuf (ref : Bool) (s : State) : (residualDone ref s).dbuf = s.dbuf := rfl
@[simp] theorem residualDone_obuf (ref : Bool) (s : State) : (residualDone ref s).obuf = s.obuf := rfl
@[simp] theorem residualDone_wmem (ref : Bool) (s : State) : (residualDone ref s).wmem = s.wmem := rfl
@[simp] theorem residualDone_ybuf (ref : Bool) (s : State) : (residualDone ref s).ybuf = s.ybuf := rfl
@[simp] theorem residualDone_ebuf (ref : Bool) (s : State) : (residualDone ref s).ebuf = s.ebuf := rfl
@[simp] theorem residualDone_tdl (ref : Bool) (s : State) : (residualDone ref s).tdl = s.tdl := rfl
@[simp] theorem residualDone_acc (ref : Bool) (s : State) : (residualDone ref s).acc = s.acc := rfl
@[simp] theorem residualDone_g (ref : Bool) (s : State) : (residualDone ref s).g = s.g := rfl
@[simp] theorem residualDone_pend (ref : Bool) (s : State) : (residualDone ref s).pend = s.pend := rfl
@[simp] theorem residualDone_seqr (ref : Bool) (s : State) : (residualDone ref s).seqr = s.seqr := rfl
@[simp] theorem residualDone_freeCount (ref : Bool) (s : State) : (residualDone ref s).freeCount = s.freeCount := rfl
@[simp] theorem residualDone_inputs (ref : Bool) (s : State) : (residualDone ref s).inputs = s.inputs := rfl
@[simp] theorem residualDone_resps (ref : Bool) (s : State) : (residualDone ref s).resps = s.resps := rfl

/-! ### `adaptDone` -/

@[simp] theorem adaptDone_capN (s : State) : (adaptDone s).capN = s.capN := rfl
@[simp] theorem adaptDone_capL (s : State) : (adaptDone s).capL = s.capL := rfl
@[simp] theorem adaptDone_capFmt (s : State) : (adaptDone s).capFmt = s.capFmt := rfl
@[simp] theorem adaptDone_cfgN (s : State) : (adaptDone s).cfgN = s.cfgN := rfl
@[simp] theorem adaptDone_cfgL (s : State) : (adaptDone s).cfgL = s.cfgL := rfl
@[simp] theorem adaptDone_cfgMuLo (s : State) : (adaptDone s).cfgMuLo = s.cfgMuLo := rfl
@[simp] theorem adaptDone_cfgMuHi (s : State) : (adaptDone s).cfgMuHi = s.cfgMuHi := rfl
@[simp] theorem adaptDone_st (s : State) : (adaptDone s).st = s.st := rfl
@[simp] theorem adaptDone_busy (s : State) : (adaptDone s).busy = s.busy := rfl
@[simp] theorem adaptDone_err (s : State) : (adaptDone s).err = s.err := rfl
@[simp] theorem adaptDone_yFresh (s : State) : (adaptDone s).yFresh = false := rfl
@[simp] theorem adaptDone_eFresh (s : State) : (adaptDone s).eFresh = false := rfl
@[simp] theorem adaptDone_eRef (s : State) : (adaptDone s).eRef = s.eRef := rfl
@[simp] theorem adaptDone_cause (s : State) : (adaptDone s).cause = s.cause := rfl
@[simp] theorem adaptDone_einfo (s : State) : (adaptDone s).einfo = s.einfo := rfl
@[simp] theorem adaptDone_seq (s : State) : (adaptDone s).seq = s.seq + 1#64 := rfl
@[simp] theorem adaptDone_irqEn (s : State) : (adaptDone s).irqEn = s.irqEn := rfl
@[simp] theorem adaptDone_irqPend (s : State) : (adaptDone s).irqPend = s.irqPend := rfl
@[simp] theorem adaptDone_xbuf (s : State) : (adaptDone s).xbuf = s.xbuf := rfl
@[simp] theorem adaptDone_dbuf (s : State) : (adaptDone s).dbuf = s.dbuf := rfl
@[simp] theorem adaptDone_obuf (s : State) : (adaptDone s).obuf = s.obuf := rfl
@[simp] theorem adaptDone_wmem (s : State) : (adaptDone s).wmem = s.wmem := rfl
@[simp] theorem adaptDone_ybuf (s : State) : (adaptDone s).ybuf = s.ybuf := rfl
@[simp] theorem adaptDone_ebuf (s : State) : (adaptDone s).ebuf = s.ebuf := rfl
@[simp] theorem adaptDone_tdl (s : State) : (adaptDone s).tdl = s.tdl := rfl
@[simp] theorem adaptDone_acc (s : State) : (adaptDone s).acc = s.acc := rfl
@[simp] theorem adaptDone_g (s : State) : (adaptDone s).g = s.g := rfl
@[simp] theorem adaptDone_pend (s : State) : (adaptDone s).pend = s.pend := rfl
@[simp] theorem adaptDone_seqr (s : State) : (adaptDone s).seqr = s.seqr := rfl
@[simp] theorem adaptDone_freeCount (s : State) : (adaptDone s).freeCount = s.freeCount := rfl
@[simp] theorem adaptDone_inputs (s : State) : (adaptDone s).inputs = s.inputs := rfl
@[simp] theorem adaptDone_resps (s : State) : (adaptDone s).resps = s.resps := rfl

/-! ### `configureBody` -/

@[simp] theorem configureBody_capN (s : State) : (configureBody s).capN = s.capN := rfl
@[simp] theorem configureBody_capL (s : State) : (configureBody s).capL = s.capL := rfl
@[simp] theorem configureBody_capFmt (s : State) : (configureBody s).capFmt = s.capFmt := rfl
@[simp] theorem configureBody_cfgN (s : State) : (configureBody s).cfgN = s.cfgN := rfl
@[simp] theorem configureBody_cfgL (s : State) : (configureBody s).cfgL = s.cfgL := rfl
@[simp] theorem configureBody_cfgMuLo (s : State) : (configureBody s).cfgMuLo = s.cfgMuLo := rfl
@[simp] theorem configureBody_cfgMuHi (s : State) : (configureBody s).cfgMuHi = s.cfgMuHi := rfl
@[simp] theorem configureBody_st (s : State) : (configureBody s).st = .ready := rfl
@[simp] theorem configureBody_busy (s : State) : (configureBody s).busy = s.busy := rfl
@[simp] theorem configureBody_err (s : State) : (configureBody s).err = s.err := rfl
@[simp] theorem configureBody_yFresh (s : State) : (configureBody s).yFresh = false := rfl
@[simp] theorem configureBody_eFresh (s : State) : (configureBody s).eFresh = false := rfl
@[simp] theorem configureBody_eRef (s : State) : (configureBody s).eRef = false := rfl
@[simp] theorem configureBody_cause (s : State) : (configureBody s).cause = s.cause := rfl
@[simp] theorem configureBody_einfo (s : State) : (configureBody s).einfo = s.einfo := rfl
@[simp] theorem configureBody_seq (s : State) : (configureBody s).seq = 0#64 := rfl
@[simp] theorem configureBody_irqEn (s : State) : (configureBody s).irqEn = s.irqEn := rfl
@[simp] theorem configureBody_irqPend (s : State) : (configureBody s).irqPend = s.irqPend := rfl
@[simp] theorem configureBody_xbuf (s : State) : (configureBody s).xbuf = bufClear s.nmax s.xbuf := rfl
@[simp] theorem configureBody_dbuf (s : State) : (configureBody s).dbuf = bufClear s.nmax s.dbuf := rfl
@[simp] theorem configureBody_obuf (s : State) : (configureBody s).obuf = bufClear s.nmax s.obuf := rfl
@[simp] theorem configureBody_wmem (s : State) : (configureBody s).wmem = bufClear s.lmax s.wmem := rfl
@[simp] theorem configureBody_ybuf (s : State) : (configureBody s).ybuf = bufClear s.nmax s.ybuf := rfl
@[simp] theorem configureBody_ebuf (s : State) : (configureBody s).ebuf = bufClear s.nmax s.ebuf := rfl
@[simp] theorem configureBody_tdl (s : State) : (configureBody s).tdl = bufClear s.lmax s.tdl := rfl
@[simp] theorem configureBody_acc (s : State) : (configureBody s).acc = s.acc := rfl
@[simp] theorem configureBody_g (s : State) : (configureBody s).g = s.g := rfl
@[simp] theorem configureBody_pend (s : State) : (configureBody s).pend = s.pend := rfl
@[simp] theorem configureBody_seqr (s : State) : (configureBody s).seqr = seqrAt .fill (max s.nmax s.lmax) 0 := rfl
@[simp] theorem configureBody_freeCount (s : State) : (configureBody s).freeCount = s.freeCount := rfl
@[simp] theorem configureBody_inputs (s : State) : (configureBody s).inputs = s.inputs := rfl
@[simp] theorem configureBody_resps (s : State) : (configureBody s).resps = s.resps := rfl

/-! ### `resetwBody` -/

@[simp] theorem resetwBody_capN (s : State) : (resetwBody s).capN = s.capN := rfl
@[simp] theorem resetwBody_capL (s : State) : (resetwBody s).capL = s.capL := rfl
@[simp] theorem resetwBody_capFmt (s : State) : (resetwBody s).capFmt = s.capFmt := rfl
@[simp] theorem resetwBody_cfgN (s : State) : (resetwBody s).cfgN = s.cfgN := rfl
@[simp] theorem resetwBody_cfgL (s : State) : (resetwBody s).cfgL = s.cfgL := rfl
@[simp] theorem resetwBody_cfgMuLo (s : State) : (resetwBody s).cfgMuLo = s.cfgMuLo := rfl
@[simp] theorem resetwBody_cfgMuHi (s : State) : (resetwBody s).cfgMuHi = s.cfgMuHi := rfl
@[simp] theorem resetwBody_st (s : State) : (resetwBody s).st = .ready := rfl
@[simp] theorem resetwBody_busy (s : State) : (resetwBody s).busy = s.busy := rfl
@[simp] theorem resetwBody_err (s : State) : (resetwBody s).err = s.err := rfl
@[simp] theorem resetwBody_yFresh (s : State) : (resetwBody s).yFresh = false := rfl
@[simp] theorem resetwBody_eFresh (s : State) : (resetwBody s).eFresh = false := rfl
@[simp] theorem resetwBody_eRef (s : State) : (resetwBody s).eRef = s.eRef := rfl
@[simp] theorem resetwBody_cause (s : State) : (resetwBody s).cause = s.cause := rfl
@[simp] theorem resetwBody_einfo (s : State) : (resetwBody s).einfo = s.einfo := rfl
@[simp] theorem resetwBody_seq (s : State) : (resetwBody s).seq = s.seq := rfl
@[simp] theorem resetwBody_irqEn (s : State) : (resetwBody s).irqEn = s.irqEn := rfl
@[simp] theorem resetwBody_irqPend (s : State) : (resetwBody s).irqPend = s.irqPend := rfl
@[simp] theorem resetwBody_xbuf (s : State) : (resetwBody s).xbuf = s.xbuf := rfl
@[simp] theorem resetwBody_dbuf (s : State) : (resetwBody s).dbuf = s.dbuf := rfl
@[simp] theorem resetwBody_obuf (s : State) : (resetwBody s).obuf = s.obuf := rfl
@[simp] theorem resetwBody_wmem (s : State) : (resetwBody s).wmem = bufClear s.lmax s.wmem := rfl
@[simp] theorem resetwBody_ybuf (s : State) : (resetwBody s).ybuf = s.ybuf := rfl
@[simp] theorem resetwBody_ebuf (s : State) : (resetwBody s).ebuf = s.ebuf := rfl
@[simp] theorem resetwBody_tdl (s : State) : (resetwBody s).tdl = s.tdl := rfl
@[simp] theorem resetwBody_acc (s : State) : (resetwBody s).acc = s.acc := rfl
@[simp] theorem resetwBody_g (s : State) : (resetwBody s).g = s.g := rfl
@[simp] theorem resetwBody_pend (s : State) : (resetwBody s).pend = s.pend := rfl
@[simp] theorem resetwBody_seqr (s : State) : (resetwBody s).seqr = seqrAt .fill s.lmax 0 := rfl
@[simp] theorem resetwBody_freeCount (s : State) : (resetwBody s).freeCount = s.freeCount := rfl
@[simp] theorem resetwBody_inputs (s : State) : (resetwBody s).inputs = s.inputs := rfl
@[simp] theorem resetwBody_resps (s : State) : (resetwBody s).resps = s.resps := rfl

/-! ### `disposeBody` -/

@[simp] theorem disposeBody_capN (s : State) : (disposeBody s).capN = s.capN := rfl
@[simp] theorem disposeBody_capL (s : State) : (disposeBody s).capL = s.capL := rfl
@[simp] theorem disposeBody_capFmt (s : State) : (disposeBody s).capFmt = s.capFmt := rfl
@[simp] theorem disposeBody_cfgN (s : State) : (disposeBody s).cfgN = s.cfgN := rfl
@[simp] theorem disposeBody_cfgL (s : State) : (disposeBody s).cfgL = s.cfgL := rfl
@[simp] theorem disposeBody_cfgMuLo (s : State) : (disposeBody s).cfgMuLo = s.cfgMuLo := rfl
@[simp] theorem disposeBody_cfgMuHi (s : State) : (disposeBody s).cfgMuHi = s.cfgMuHi := rfl
@[simp] theorem disposeBody_st (s : State) : (disposeBody s).st = .unconfigured := rfl
@[simp] theorem disposeBody_busy (s : State) : (disposeBody s).busy = s.busy := rfl
@[simp] theorem disposeBody_err (s : State) : (disposeBody s).err = s.err := rfl
@[simp] theorem disposeBody_yFresh (s : State) : (disposeBody s).yFresh = false := rfl
@[simp] theorem disposeBody_eFresh (s : State) : (disposeBody s).eFresh = false := rfl
@[simp] theorem disposeBody_eRef (s : State) : (disposeBody s).eRef = false := rfl
@[simp] theorem disposeBody_cause (s : State) : (disposeBody s).cause = s.cause := rfl
@[simp] theorem disposeBody_einfo (s : State) : (disposeBody s).einfo = s.einfo := rfl
@[simp] theorem disposeBody_seq (s : State) : (disposeBody s).seq = s.seq := rfl
@[simp] theorem disposeBody_irqEn (s : State) : (disposeBody s).irqEn = s.irqEn := rfl
@[simp] theorem disposeBody_irqPend (s : State) : (disposeBody s).irqPend = s.irqPend := rfl
@[simp] theorem disposeBody_xbuf (s : State) : (disposeBody s).xbuf = bufOf 0#16 s.nmax (fun i => (Config.freeValue .xbuf s.freeCount i).setWidth 16) := rfl
@[simp] theorem disposeBody_dbuf (s : State) : (disposeBody s).dbuf = bufOf 0#16 s.nmax (fun i => (Config.freeValue .dbuf s.freeCount i).setWidth 16) := rfl
@[simp] theorem disposeBody_obuf (s : State) : (disposeBody s).obuf = bufOf 0#16 s.nmax (fun i => (Config.freeValue .obuf s.freeCount i).setWidth 16) := rfl
@[simp] theorem disposeBody_wmem (s : State) : (disposeBody s).wmem = bufOf s.zero s.lmax (fun i => s.format.dec (Config.freeValue .wmem s.freeCount i)) := rfl
@[simp] theorem disposeBody_ybuf (s : State) : (disposeBody s).ybuf = bufOf s.zero s.nmax (fun i => s.format.dec (Config.freeValue .ybuf s.freeCount i)) := rfl
@[simp] theorem disposeBody_ebuf (s : State) : (disposeBody s).ebuf = bufOf s.zero s.nmax (fun i => s.format.dec (Config.freeValue .ebuf s.freeCount i)) := rfl
@[simp] theorem disposeBody_tdl (s : State) : (disposeBody s).tdl = bufOf 0#16 s.lmax (fun i => (Config.freeValue .tdl s.freeCount i).setWidth 16) := rfl
@[simp] theorem disposeBody_acc (s : State) : (disposeBody s).acc = s.acc := rfl
@[simp] theorem disposeBody_g (s : State) : (disposeBody s).g = s.g := rfl
@[simp] theorem disposeBody_pend (s : State) : (disposeBody s).pend = s.pend := rfl
@[simp] theorem disposeBody_seqr (s : State) : (disposeBody s).seqr = s.seqr := rfl
@[simp] theorem disposeBody_freeCount (s : State) : (disposeBody s).freeCount = s.freeCount + 1 := rfl
@[simp] theorem disposeBody_inputs (s : State) : (disposeBody s).inputs = s.inputs := rfl
@[simp] theorem disposeBody_resps (s : State) : (disposeBody s).resps = s.resps := rfl

/-! ### `withDatapath` -/

@[simp] theorem withDatapath_capN (s : State) (d : Datapath NumCode) : (s.withDatapath d).capN = s.capN := rfl
@[simp] theorem withDatapath_capL (s : State) (d : Datapath NumCode) : (s.withDatapath d).capL = s.capL := rfl
@[simp] theorem withDatapath_capFmt (s : State) (d : Datapath NumCode) : (s.withDatapath d).capFmt = s.capFmt := rfl
@[simp] theorem withDatapath_cfgN (s : State) (d : Datapath NumCode) : (s.withDatapath d).cfgN = s.cfgN := rfl
@[simp] theorem withDatapath_cfgL (s : State) (d : Datapath NumCode) : (s.withDatapath d).cfgL = s.cfgL := rfl
@[simp] theorem withDatapath_cfgMuLo (s : State) (d : Datapath NumCode) : (s.withDatapath d).cfgMuLo = s.cfgMuLo := rfl
@[simp] theorem withDatapath_cfgMuHi (s : State) (d : Datapath NumCode) : (s.withDatapath d).cfgMuHi = s.cfgMuHi := rfl
@[simp] theorem withDatapath_st (s : State) (d : Datapath NumCode) : (s.withDatapath d).st = s.st := rfl
@[simp] theorem withDatapath_busy (s : State) (d : Datapath NumCode) : (s.withDatapath d).busy = s.busy := rfl
@[simp] theorem withDatapath_err (s : State) (d : Datapath NumCode) : (s.withDatapath d).err = s.err := rfl
@[simp] theorem withDatapath_yFresh (s : State) (d : Datapath NumCode) : (s.withDatapath d).yFresh = s.yFresh := rfl
@[simp] theorem withDatapath_eFresh (s : State) (d : Datapath NumCode) : (s.withDatapath d).eFresh = s.eFresh := rfl
@[simp] theorem withDatapath_eRef (s : State) (d : Datapath NumCode) : (s.withDatapath d).eRef = s.eRef := rfl
@[simp] theorem withDatapath_cause (s : State) (d : Datapath NumCode) : (s.withDatapath d).cause = s.cause := rfl
@[simp] theorem withDatapath_einfo (s : State) (d : Datapath NumCode) : (s.withDatapath d).einfo = s.einfo := rfl
@[simp] theorem withDatapath_seq (s : State) (d : Datapath NumCode) : (s.withDatapath d).seq = s.seq := rfl
@[simp] theorem withDatapath_irqEn (s : State) (d : Datapath NumCode) : (s.withDatapath d).irqEn = s.irqEn := rfl
@[simp] theorem withDatapath_irqPend (s : State) (d : Datapath NumCode) : (s.withDatapath d).irqPend = s.irqPend := rfl
@[simp] theorem withDatapath_xbuf (s : State) (d : Datapath NumCode) : (s.withDatapath d).xbuf = s.xbuf := rfl
@[simp] theorem withDatapath_dbuf (s : State) (d : Datapath NumCode) : (s.withDatapath d).dbuf = s.dbuf := rfl
@[simp] theorem withDatapath_obuf (s : State) (d : Datapath NumCode) : (s.withDatapath d).obuf = d.obuf := rfl
@[simp] theorem withDatapath_wmem (s : State) (d : Datapath NumCode) : (s.withDatapath d).wmem = d.wmem := rfl
@[simp] theorem withDatapath_ybuf (s : State) (d : Datapath NumCode) : (s.withDatapath d).ybuf = d.ybuf := rfl
@[simp] theorem withDatapath_ebuf (s : State) (d : Datapath NumCode) : (s.withDatapath d).ebuf = d.ebuf := rfl
@[simp] theorem withDatapath_tdl (s : State) (d : Datapath NumCode) : (s.withDatapath d).tdl = d.tdl := rfl
@[simp] theorem withDatapath_acc (s : State) (d : Datapath NumCode) : (s.withDatapath d).acc = d.acc := rfl
@[simp] theorem withDatapath_g (s : State) (d : Datapath NumCode) : (s.withDatapath d).g = d.g := rfl
@[simp] theorem withDatapath_pend (s : State) (d : Datapath NumCode) : (s.withDatapath d).pend = s.pend := rfl
@[simp] theorem withDatapath_seqr (s : State) (d : Datapath NumCode) : (s.withDatapath d).seqr = d.seqr := rfl
@[simp] theorem withDatapath_freeCount (s : State) (d : Datapath NumCode) : (s.withDatapath d).freeCount = s.freeCount + 1 := rfl
@[simp] theorem withDatapath_inputs (s : State) (d : Datapath NumCode) : (s.withDatapath d).inputs = s.inputs := rfl
@[simp] theorem withDatapath_resps (s : State) (d : Datapath NumCode) : (s.withDatapath d).resps = s.resps := rfl

/-! ### `recordError` and `raiseError`: the fields they never touch, and those they set -/

@[simp] theorem recordError_capN (c : Cause) (i : Word) (s : State) : (recordError c i s).capN = s.capN := by
  unfold recordError; split <;> rfl
@[simp] theorem recordError_capL (c : Cause) (i : Word) (s : State) : (recordError c i s).capL = s.capL := by
  unfold recordError; split <;> rfl
@[simp] theorem recordError_capFmt (c : Cause) (i : Word) (s : State) : (recordError c i s).capFmt = s.capFmt := by
  unfold recordError; split <;> rfl
@[simp] theorem recordError_cfgN (c : Cause) (i : Word) (s : State) : (recordError c i s).cfgN = s.cfgN := by
  unfold recordError; split <;> rfl
@[simp] theorem recordError_cfgL (c : Cause) (i : Word) (s : State) : (recordError c i s).cfgL = s.cfgL := by
  unfold recordError; split <;> rfl
@[simp] theorem recordError_cfgMuLo (c : Cause) (i : Word) (s : State) : (recordError c i s).cfgMuLo = s.cfgMuLo := by
  unfold recordError; split <;> rfl
@[simp] theorem recordError_cfgMuHi (c : Cause) (i : Word) (s : State) : (recordError c i s).cfgMuHi = s.cfgMuHi := by
  unfold recordError; split <;> rfl
@[simp] theorem recordError_st (c : Cause) (i : Word) (s : State) : (recordError c i s).st = s.st := by
  unfold recordError; split <;> rfl
@[simp] theorem recordError_busy (c : Cause) (i : Word) (s : State) : (recordError c i s).busy = s.busy := by
  unfold recordError; split <;> rfl
@[simp] theorem recordError_yFresh (c : Cause) (i : Word) (s : State) : (recordError c i s).yFresh = s.yFresh := by
  unfold recordError; split <;> rfl
@[simp] theorem recordError_eFresh (c : Cause) (i : Word) (s : State) : (recordError c i s).eFresh = s.eFresh := by
  unfold recordError; split <;> rfl
@[simp] theorem recordError_eRef (c : Cause) (i : Word) (s : State) : (recordError c i s).eRef = s.eRef := by
  unfold recordError; split <;> rfl
@[simp] theorem recordError_seq (c : Cause) (i : Word) (s : State) : (recordError c i s).seq = s.seq := by
  unfold recordError; split <;> rfl
@[simp] theorem recordError_irqEn (c : Cause) (i : Word) (s : State) : (recordError c i s).irqEn = s.irqEn := by
  unfold recordError; split <;> rfl
@[simp] theorem recordError_irqPend (c : Cause) (i : Word) (s : State) : (recordError c i s).irqPend = s.irqPend := by
  unfold recordError; split <;> rfl
@[simp] theorem recordError_xbuf (c : Cause) (i : Word) (s : State) : (recordError c i s).xbuf = s.xbuf := by
  unfold recordError; split <;> rfl
@[simp] theorem recordError_dbuf (c : Cause) (i : Word) (s : State) : (recordError c i s).dbuf = s.dbuf := by
  unfold recordError; split <;> rfl
@[simp] theorem recordError_obuf (c : Cause) (i : Word) (s : State) : (recordError c i s).obuf = s.obuf := by
  unfold recordError; split <;> rfl
@[simp] theorem recordError_wmem (c : Cause) (i : Word) (s : State) : (recordError c i s).wmem = s.wmem := by
  unfold recordError; split <;> rfl
@[simp] theorem recordError_ybuf (c : Cause) (i : Word) (s : State) : (recordError c i s).ybuf = s.ybuf := by
  unfold recordError; split <;> rfl
@[simp] theorem recordError_ebuf (c : Cause) (i : Word) (s : State) : (recordError c i s).ebuf = s.ebuf := by
  unfold recordError; split <;> rfl
@[simp] theorem recordError_tdl (c : Cause) (i : Word) (s : State) : (recordError c i s).tdl = s.tdl := by
  unfold recordError; split <;> rfl
@[simp] theorem recordError_acc (c : Cause) (i : Word) (s : State) : (recordError c i s).acc = s.acc := by
  unfold recordError; split <;> rfl
@[simp] theorem recordError_g (c : Cause) (i : Word) (s : State) : (recordError c i s).g = s.g := by
  unfold recordError; split <;> rfl
@[simp] theorem recordError_pend (c : Cause) (i : Word) (s : State) : (recordError c i s).pend = s.pend := by
  unfold recordError; split <;> rfl
@[simp] theorem recordError_seqr (c : Cause) (i : Word) (s : State) : (recordError c i s).seqr = s.seqr := by
  unfold recordError; split <;> rfl
@[simp] theorem recordError_freeCount (c : Cause) (i : Word) (s : State) : (recordError c i s).freeCount = s.freeCount := by
  unfold recordError; split <;> rfl
@[simp] theorem recordError_inputs (c : Cause) (i : Word) (s : State) : (recordError c i s).inputs = s.inputs := by
  unfold recordError; split <;> rfl
@[simp] theorem recordError_resps (c : Cause) (i : Word) (s : State) : (recordError c i s).resps = s.resps := by
  unfold recordError; split <;> rfl
@[simp] theorem recordError_err (c : Cause) (i : Word) (s : State) : (recordError c i s).err = true := by
  unfold recordError; split <;> simp_all
@[simp] theorem recordError_cause (c : Cause) (i : Word) (s : State) :
    (recordError c i s).cause = if s.err then s.cause else c := by
  unfold recordError; split <;> rfl
@[simp] theorem recordError_einfo (c : Cause) (i : Word) (s : State) :
    (recordError c i s).einfo = if s.err then s.einfo else i := by
  unfold recordError; split <;> rfl

@[simp] theorem raiseError_capN (c : Cause) (i : Word) (s : State) : (raiseError c i s).capN = s.capN := by
  cases c <;> simp [raiseError]
@[simp] theorem raiseError_capL (c : Cause) (i : Word) (s : State) : (raiseError c i s).capL = s.capL := by
  cases c <;> simp [raiseError]
@[simp] theorem raiseError_capFmt (c : Cause) (i : Word) (s : State) : (raiseError c i s).capFmt = s.capFmt := by
  cases c <;> simp [raiseError]
@[simp] theorem raiseError_cfgN (c : Cause) (i : Word) (s : State) : (raiseError c i s).cfgN = s.cfgN := by
  cases c <;> simp [raiseError]
@[simp] theorem raiseError_cfgL (c : Cause) (i : Word) (s : State) : (raiseError c i s).cfgL = s.cfgL := by
  cases c <;> simp [raiseError]
@[simp] theorem raiseError_cfgMuLo (c : Cause) (i : Word) (s : State) : (raiseError c i s).cfgMuLo = s.cfgMuLo := by
  cases c <;> simp [raiseError]
@[simp] theorem raiseError_cfgMuHi (c : Cause) (i : Word) (s : State) : (raiseError c i s).cfgMuHi = s.cfgMuHi := by
  cases c <;> simp [raiseError]
@[simp] theorem raiseError_busy (c : Cause) (i : Word) (s : State) : (raiseError c i s).busy = s.busy := by
  cases c <;> simp [raiseError]
@[simp] theorem raiseError_eRef (c : Cause) (i : Word) (s : State) : (raiseError c i s).eRef = s.eRef := by
  cases c <;> simp [raiseError]
@[simp] theorem raiseError_seq (c : Cause) (i : Word) (s : State) : (raiseError c i s).seq = s.seq := by
  cases c <;> simp [raiseError]
@[simp] theorem raiseError_irqEn (c : Cause) (i : Word) (s : State) : (raiseError c i s).irqEn = s.irqEn := by
  cases c <;> simp [raiseError]
@[simp] theorem raiseError_xbuf (c : Cause) (i : Word) (s : State) : (raiseError c i s).xbuf = s.xbuf := by
  cases c <;> simp [raiseError]
@[simp] theorem raiseError_dbuf (c : Cause) (i : Word) (s : State) : (raiseError c i s).dbuf = s.dbuf := by
  cases c <;> simp [raiseError]
@[simp] theorem raiseError_obuf (c : Cause) (i : Word) (s : State) : (raiseError c i s).obuf = s.obuf := by
  cases c <;> simp [raiseError]
@[simp] theorem raiseError_wmem (c : Cause) (i : Word) (s : State) : (raiseError c i s).wmem = s.wmem := by
  cases c <;> simp [raiseError]
@[simp] theorem raiseError_ybuf (c : Cause) (i : Word) (s : State) : (raiseError c i s).ybuf = s.ybuf := by
  cases c <;> simp [raiseError]
@[simp] theorem raiseError_ebuf (c : Cause) (i : Word) (s : State) : (raiseError c i s).ebuf = s.ebuf := by
  cases c <;> simp [raiseError]
@[simp] theorem raiseError_tdl (c : Cause) (i : Word) (s : State) : (raiseError c i s).tdl = s.tdl := by
  cases c <;> simp [raiseError]
@[simp] theorem raiseError_acc (c : Cause) (i : Word) (s : State) : (raiseError c i s).acc = s.acc := by
  cases c <;> simp [raiseError]
@[simp] theorem raiseError_g (c : Cause) (i : Word) (s : State) : (raiseError c i s).g = s.g := by
  cases c <;> simp [raiseError]
@[simp] theorem raiseError_pend (c : Cause) (i : Word) (s : State) : (raiseError c i s).pend = s.pend := by
  cases c <;> simp [raiseError]
@[simp] theorem raiseError_seqr (c : Cause) (i : Word) (s : State) : (raiseError c i s).seqr = s.seqr := by
  cases c <;> simp [raiseError]
@[simp] theorem raiseError_freeCount (c : Cause) (i : Word) (s : State) : (raiseError c i s).freeCount = s.freeCount := by
  cases c <;> simp [raiseError]
@[simp] theorem raiseError_inputs (c : Cause) (i : Word) (s : State) : (raiseError c i s).inputs = s.inputs := by
  cases c <;> simp [raiseError]
@[simp] theorem raiseError_resps (c : Cause) (i : Word) (s : State) : (raiseError c i s).resps = s.resps := by
  cases c <;> simp [raiseError]
@[simp] theorem raiseError_err (c : Cause) (i : Word) (s : State) :
    (raiseError c i s).err = true := by
  cases c <;> simp [raiseError]
@[simp] theorem raiseError_cause (c : Cause) (i : Word) (s : State) :
    (raiseError c i s).cause = if s.err then s.cause else c := by
  cases c <;> simp [raiseError]
@[simp] theorem raiseError_einfo (c : Cause) (i : Word) (s : State) :
    (raiseError c i s).einfo = if s.err then s.einfo else i := by
  cases c <;> simp [raiseError]
@[simp] theorem raiseError_irqPend (c : Cause) (i : Word) (s : State) :
    (raiseError c i s).irqPend = s.irqPend ||| 0b10#2 := by
  cases c <;> simp [raiseError]
@[simp] theorem raiseError_st (c : Cause) (i : Word) (s : State) :
    (raiseError c i s).st = if c = .numeric then .fault else s.st := by
  cases c <;> simp [raiseError]
@[simp] theorem raiseError_yFresh (c : Cause) (i : Word) (s : State) :
    (raiseError c i s).yFresh = if c = .numeric then false else s.yFresh := by
  cases c <;> simp [raiseError]
@[simp] theorem raiseError_eFresh (c : Cause) (i : Word) (s : State) :
    (raiseError c i s).eFresh = if c = .numeric then false else s.eFresh := by
  cases c <;> simp [raiseError]

end Sys2Proof.Machine
end

