-- ==== Sys2Proof/Laws/Exec.lean ====
section
/-! SUPPORT. What running a command can do, once per shared operation: the delivery and the completion of a command, the end of
a pass, the answer of every meaning. -/

namespace Sys2Proof.Machine

/-- A short command: nothing while busy, else its body or SEQUENCE. -/
theorem runShort_cases (i : Instr) (body : State → State) (s : State) :
    (s.busy = true ∧ runShort i body s = .next s) ∨
      (s.busy = false ∧ permitted i s = true ∧ runShort i body s = .next (body s)) ∨
      (s.busy = false ∧ permitted i s = false ∧ runShort i body s = .next (raiseError .sequence (encode i) s)) := by
  cases hb : s.busy <;> cases hp : permitted i s <;> simp [runShort, hb, hp]

/-- A long command: its completion while busy, else SEQUENCE, CONFIG or acceptance. -/
theorem runLong_cases (i : Instr) (check : State → Option Word) (body : State → State) (s : State) :
    (s.busy = true ∧ runLong i check body s = .next (completeCommand (body s))) ∨
      (s.busy = false ∧ permitted i s = false ∧
        runLong i check body s = .next (raiseError .sequence (encode i) s)) ∨
      (s.busy = false ∧ permitted i s = true ∧
        ((∃ m, check s = some m ∧ runLong i check body s = .next (raiseError .config m s)) ∨
          (check s = none ∧ runLong i check body s = .next (acceptCommand (encode i) s)))) := by
  cases hb : s.busy <;> cases hp : permitted i s <;> cases hc : check s <;> simp [runLong, hb, hp, hc]

@[simp] theorem runLong_busy {i : Instr} {check : State → Option Word} {body : State → State} {s : State}
    (h : s.busy = true) : runLong i check body s = .next (completeCommand (body s)) := by simp [runLong, h]

/-- How a pass ends: done, or NUMERIC at its anomaly. -/
theorem endPass_cases (stage : BitVec 2) (done : State → State) (s : State) (r : Datapath NumCode × Option Anomaly) :
    (r.2 = none ∧ endPass stage done s r = (done (s.withDatapath r.1), true)) ∨
      ∃ e, r.2 = some e ∧
        endPass stage done s r = (raiseError .numeric (numericInfo stage e.n e.k) (s.withDatapath r.1), false) := by
  rcases h : r.2 with _ | e
  · exact .inl ⟨rfl, by simp [endPass, h]⟩
  · exact .inr ⟨e, rfl, by simp [endPass, h]⟩

/-! ### The arms of `exec` over the two shared operations -/

theorem exec_nop (s : State) : exec .nop s = runShort .nop (fun s => s) s := rfl
theorem exec_configure (s : State) : exec .configure s = runLong .configure configCheck configureBody s := rfl
theorem exec_dispose (s : State) : exec .dispose s = runShort .dispose disposeBody s := rfl
theorem exec_resetw (s : State) : exec .resetw s = runLong .resetw noCheck resetwBody s := rfl
theorem exec_estimate (s : State) :
    exec .estimate s = runLong .estimate noCheck (fun s => (estimateBody s).1) s := rfl
theorem exec_residual (ref : Bool) (s : State) :
    exec (.residual ref) s = runLong (.residual ref) noCheck (fun s => (residualBody ref s).1) s := rfl
theorem exec_adapt (s : State) : exec .adapt s = runLong .adapt noCheck (fun s => (adaptBody s).1) s := rfl
theorem exec_process (ref : Bool) (s : State) :
    exec (.process ref) s = runLong (.process ref) noCheck (fun s => (processBody ref s).1) s := rfl
theorem exec_clrerr (s : State) : exec .clrerr s = runShort .clrerr clearError s := rfl

/-- Every command runs as a short or as a long one. -/
theorem exec_short_or_long (i : Instr) (s : State) :
    (i.isLong = false ∧ ∃ body, exec i s = runShort i body s) ∨
      (i.isLong = true ∧ ∃ check body, exec i s = runLong i check body s) := by
  cases i
  · exact .inl ⟨rfl, _, exec_nop s⟩
  · exact .inr ⟨rfl, _, _, exec_configure s⟩
  · exact .inl ⟨rfl, _, exec_dispose s⟩
  · exact .inr ⟨rfl, _, _, exec_resetw s⟩
  · exact .inr ⟨rfl, _, _, exec_estimate s⟩
  · exact .inr ⟨rfl, _, _, exec_residual _ s⟩
  · exact .inr ⟨rfl, _, _, exec_adapt s⟩
  · exact .inr ⟨rfl, _, _, exec_process _ s⟩
  · exact .inl ⟨rfl, _, exec_clrerr s⟩

/-- The meaning of a command answers a next state, in every state. -/
theorem exec_next (i : Instr) (s : State) : ∃ t, exec i s = .next t := by
  rcases exec_short_or_long i s with ⟨-, b, h⟩ | ⟨-, c, b, h⟩
  · rcases runShort_cases i b s with ⟨-, h'⟩ | ⟨-, -, h'⟩ | ⟨-, -, h'⟩ <;> exact ⟨_, h.trans h'⟩
  · rcases runLong_cases i c b s with ⟨-, h'⟩ | ⟨-, -, h'⟩ | ⟨-, -, ⟨_, -, h'⟩ | ⟨-, h'⟩⟩ <;> exact ⟨_, h.trans h'⟩

end Sys2Proof.Machine
end

