-- ==== Sys2Proof/Laws/Memory.lean ====
section
/-! SUPPORT. The canonical form of the buffers (`Memory.wf`): State.reset has it and every operation on the buffers keeps it. -/

namespace Sys2Proof.Machine

variable {α : Type}

theorem memory_wf_iff (s : State) : Memory.wf s = true ↔
    bufWf 0#16 s.nmax s.xbuf = true ∧ bufWf 0#16 s.nmax s.dbuf = true ∧ bufWf 0#16 s.nmax s.obuf = true
      ∧ bufWf s.zero s.lmax s.wmem = true ∧ bufWf s.zero s.nmax s.ybuf = true ∧ bufWf s.zero s.nmax s.ebuf = true
      ∧ bufWf 0#16 s.lmax s.tdl = true := by
  simp [Memory.wf, and_assoc]

theorem reset_memory_wf : Memory.wf State.reset = true := by decide

/-- `Memory.wf` looks at the depths, the NUM and the seven buffers alone. -/
theorem memory_wf_congr {s t : State} (hn : t.capN = s.capN) (hl : t.capL = s.capL) (hf : t.capFmt = s.capFmt)
    (hx : t.xbuf = s.xbuf) (hd : t.dbuf = s.dbuf) (ho : t.obuf = s.obuf) (hw : t.wmem = s.wmem) (hy : t.ybuf = s.ybuf)
    (he : t.ebuf = s.ebuf) (ht : t.tdl = s.tdl) : Memory.wf t = Memory.wf s := by
  simp only [Memory.wf, State.nmax, State.lmax, State.zero, State.format, hf, hn, hl, hx, hd, ho, hw, hy, he, ht]

/-- A draw of free contents is canonical, whatever the values are. -/
theorem freeBuffers_memory_wf (s : State) : Memory.wf (freeBuffers s) = true := by
  rw [memory_wf_iff]
  exact ⟨bufWf_bufOf _ _ _, bufWf_bufOf _ _ _, bufWf_bufOf _ _ _, bufWf_bufOf _ _ _, bufWf_bufOf _ _ _,
    bufWf_bufOf _ _ _, bufWf_bufOf _ _ _⟩

theorem disposeBody_memory_wf (s : State) : Memory.wf (disposeBody s) = true := freeBuffers_memory_wf _

theorem resetMachine_memory_wf (s : State) : Memory.wf (resetMachine s) = true :=
  (memory_wf_congr rfl rfl rfl rfl rfl rfl rfl rfl rfl rfl).trans (freeBuffers_memory_wf _)

theorem completeCommand_memory_wf {s : State} (h : Memory.wf s = true) : Memory.wf (completeCommand s) = true :=
  (memory_wf_congr rfl rfl rfl rfl rfl rfl rfl rfl rfl rfl).trans h

theorem raiseError_memory_wf {s : State} (c : Cause) (i : Word) (h : Memory.wf s = true) :
    Memory.wf (raiseError c i s) = true :=
  (memory_wf_congr (raiseError_capN ..) (raiseError_capL ..) (raiseError_capFmt ..) (raiseError_xbuf ..) (raiseError_dbuf ..)
    (raiseError_obuf ..) (raiseError_wmem ..) (raiseError_ybuf ..) (raiseError_ebuf ..) (raiseError_tdl ..)).trans h

theorem configureBody_memory_wf {s : State} (h : Memory.wf s = true) : Memory.wf (configureBody s) = true := by
  rw [memory_wf_iff] at h ⊢
  obtain ⟨h1, h2, h3, h4, h5, h6, h7⟩ := h
  exact ⟨bufWf_bufClear h1 _, bufWf_bufClear h2 _, bufWf_bufClear h3 _, bufWf_bufClear h4 _, bufWf_bufClear h5 _,
    bufWf_bufClear h6 _, bufWf_bufClear h7 _⟩

theorem resetwBody_memory_wf {s : State} (h : Memory.wf s = true) : Memory.wf (resetwBody s) = true := by
  rw [memory_wf_iff] at h ⊢
  obtain ⟨h1, h2, h3, h4, h5, h6, h7⟩ := h
  exact ⟨h1, h2, h3, bufWf_bufClear h4 _, h5, h6, h7⟩

/-! ### The passes -/

/-- The buffers a pass works on are canonical within the depths `nm` and `lm`. -/
structure DatapathWf [DecidableEq α] (z : α) (nm lm : Nat) (d : Datapath α) : Prop where
  tdl : bufWf 0#16 lm d.tdl = true
  wmem : bufWf z lm d.wmem = true
  ybuf : bufWf z nm d.ybuf = true
  ebuf : bufWf z nm d.ebuf = true
  obuf : bufWf 0#16 nm d.obuf = true

/-- A property that every iteration keeps, also the one that ends in an anomaly, holds after the loop. -/
theorem loopUntil_keeps {σ : Type} (f : Nat → σ → σ × Option Anomaly) (P : σ → Prop) (c : Nat) (d : σ) (h0 : P d)
    (hs : ∀ j d, j < c → P d → P (f j d).1) : P (loopUntil f 0 c d).1 := by
  have h := loopUntil_ind f (fun _ d => P d) (fun _ d => P d) c 0 d h0
    (fun j d _ hj hP => ⟨fun _ => hs j d (by simpa using hj) hP, fun _ _ => hs j d (by simpa using hj) hP⟩)
  rcases hr : (loopUntil f 0 c d).2 with _ | e
  · exact h.1 hr
  · exact h.2 e hr

theorem bufWf_shiftTaps {lm m : Nat} {t : Buf Sample} (h : bufWf 0#16 lm t = true) (hm : m < lm) :
    bufWf 0#16 lm (shiftTaps m t) = true := by
  induction m generalizing t with
  | zero => exact h
  | succ m ih => exact ih (bufWf_bufSet h hm _) (by omega)

theorem bufWf_shiftIn {lm L : Nat} {t : Buf Sample} (h : bufWf 0#16 lm t = true) (hL : 0 < L) (hlm : L ≤ lm)
    (s : Sample) : bufWf 0#16 lm (shiftIn L s t) = true :=
  bufWf_bufSet (bufWf_shiftTaps h (by omega)) (by omega) _

theorem estPass_wf [DecidableEq α] (F : NumOps α) {N L nm lm : Nat} (x : Nat → Sample) {d : Datapath α}
    (h : DatapathWf F.zero nm lm d) (hN : N ≤ nm) (hL : 0 < L) (hlm : L ≤ lm) :
    DatapathWf F.zero nm lm (estPass F N L x d).1 := by
  refine loopUntil_keeps _ _ _ _ ⟨bufWf_bufClear h.tdl _, h.wmem, h.ybuf, h.ebuf, h.obuf⟩ fun j d hj hd => ?_
  have hwf : DatapathWf F.zero nm lm (estSample F L x j d).1 := by
    simp only [estSample, estTaps_eq]
    split <;> exact ⟨bufWf_shiftIn hd.tdl hL hlm _, hd.wmem, bufWf_bufSet hd.ybuf (by omega) _, hd.ebuf, hd.obuf⟩
  exact hwf

theorem resPass_wf [DecidableEq α] (F : NumOps α) {N nm lm : Nat} (src : Nat → Sample) {d : Datapath α}
    (h : DatapathWf F.zero nm lm d) (hN : N ≤ nm) : DatapathWf F.zero nm lm (resPass F N src d).1 := by
  refine loopUntil_keeps _ _ _ _ ⟨h.tdl, h.wmem, h.ybuf, h.ebuf, h.obuf⟩ fun j d hj hd => ?_
  simp only [resSample]
  split
  · exact ⟨hd.tdl, hd.wmem, hd.ybuf, bufWf_bufSet hd.ebuf (by omega) _, bufWf_bufSet hd.obuf (by omega) _⟩
  · exact ⟨hd.tdl, hd.wmem, hd.ybuf, bufWf_bufSet hd.ebuf (by omega) _, hd.obuf⟩

theorem adpPass_wf [DecidableEq α] (F : NumOps α) (mu : α) {N L nm lm : Nat} (x : Nat → Sample) {d : Datapath α}
    (h : DatapathWf F.zero nm lm d) (hL : 0 < L) (hlm : L ≤ lm) :
    DatapathWf F.zero nm lm (adpPass F mu N L x d).1 := by
  refine loopUntil_keeps _ _ _ _ ⟨bufWf_bufClear h.tdl _, h.wmem, h.ybuf, h.ebuf, h.obuf⟩ fun j d hj hd => ?_
  have hin := loopUntil_keeps (adpTap F j) (DatapathWf F.zero nm lm) L
    { d with tdl := shiftIn L (x j) d.tdl, g := F.mul mu (bufGet F.zero d.ebuf j) }
    ⟨bufWf_shiftIn hd.tdl hL hlm _, hd.wmem, hd.ybuf, hd.ebuf, hd.obuf⟩ fun k d hk hd => by
      simp only [adpTap]
      split <;> exact ⟨hd.tdl, bufWf_bufSet hd.wmem (by omega) _, hd.ybuf, hd.ebuf, hd.obuf⟩
  simp only [adpSample]
  rcases hl : loopUntil (adpTap F j) 0 L
    { d with tdl := shiftIn L (x j) d.tdl, g := F.mul mu (bufGet F.zero d.ebuf j) } with ⟨d2, _ | e⟩ <;>
    rw [hl] at hin
  · exact ⟨hin.tdl, hin.wmem, hin.ybuf, hin.ebuf, hin.obuf⟩
  · exact hin

/-- A state takes over a canonical datapath. -/
theorem withDatapath_memory_wf {s : State} {d : Datapath NumCode} (h : Memory.wf s = true)
    (hd : DatapathWf s.zero s.nmax s.lmax d) : Memory.wf (s.withDatapath d) = true := by
  rw [memory_wf_iff] at h ⊢
  exact ⟨h.1, h.2.1, hd.obuf, hd.wmem, hd.ybuf, hd.ebuf, hd.tdl⟩

theorem datapath_wf {s : State} (h : Memory.wf s = true) : DatapathWf s.zero s.nmax s.lmax s.datapath := by
  rw [memory_wf_iff] at h
  obtain ⟨-, -, h3, h4, h5, h6, h7⟩ := h
  exact ⟨h7, h4, h5, h6, h3⟩

/-! ### The port -/

/-- A permitted write to a buffer keeps the canonical form (R70). -/
theorem writeEffect_memory_wf {s : State} {a : Offset} (v : Word) (h : Memory.wf s = true)
    (hi : regionIndexOk (regionOf a) a s = true) : Memory.wf (writeEffect a v s) = true := by
  have h' := (memory_wf_iff s).1 h
  obtain ⟨h1, h2, h3, h4, h5, h6, h7⟩ := h'
  unfold writeEffect
  split
  · split
    · next r _ => cases r <;> exact h
    · exact h
  · next hr =>
    rw [hr] at hi
    exact (memory_wf_iff _).2 ⟨bufWf_bufSet h1 (by simpa [regionIndexOk] using hi) _, h2, h3, h4, h5, h6, h7⟩
  · next hr =>
    rw [hr] at hi
    exact (memory_wf_iff _).2 ⟨h1, bufWf_bufSet h2 (by simpa [regionIndexOk] using hi) _, h3, h4, h5, h6, h7⟩
  · next hr =>
    rw [hr] at hi
    exact (memory_wf_iff _).2 ⟨h1, h2, h3, bufWf_bufSet h4 (by simpa [regionIndexOk] using hi) _, h5, h6, h7⟩
  all_goals exact h

end Sys2Proof.Machine
end

