-- ==== Sys2Proof/Laws/Numerics.lean ====
section
/-! SUPPORT. The laws of the numeric primitives: the fields of a binary64 number as arithmetic on its 64 bits, produced NaNs,
how non-finite values spread, what rounding gives, and that no result but a NaN's own bits depends on the NaN pattern. -/

namespace Sys2Proof.Machine

/-! ### Fields as arithmetic -/

theorem b64Frac_eq (a : Double) : b64Frac a = a.toNat % 2 ^ 52 := by
  simp [b64Frac, BitVec.extractLsb'_toNat]

theorem b64Exp_eq (a : Double) : b64Exp a = a.toNat / 2 ^ 52 % 2 ^ 11 := by
  simp [b64Exp, BitVec.extractLsb'_toNat, Nat.shiftRight_eq_div_pow]

theorem b64Sign_eq (a : Double) : b64Sign a = decide (2 ^ 63 ≤ a.toNat) := by
  have h := a.isLt
  have e : b64Sign a = (a.toNat / 2 ^ 63 % 2 == 1) := by
    rw [b64Sign, BitVec.getLsbD, Nat.testBit_eq_decide_div_mod_eq]; rfl
  rw [e]
  by_cases hs : 2 ^ 63 ≤ a.toNat
  · have : a.toNat / 2 ^ 63 = 1 := by omega
    rw [this]; simp only [hs]; rfl
  · have : a.toNat / 2 ^ 63 = 0 := by omega
    rw [this]; simp only [hs]; rfl

theorem b64Exp_lt (a : Double) : b64Exp a < 2048 := by rw [b64Exp_eq]; omega

theorem b64Frac_lt (a : Double) : b64Frac a < 2 ^ 52 := by rw [b64Frac_eq]; omega

/-- Equal sign, exponent and fraction: equal numbers. -/
theorem double_ext {a b : Double} (hs : b64Sign a = b64Sign b) (he : b64Exp a = b64Exp b) (hf : b64Frac a = b64Frac b) :
    a = b := by
  rw [b64Sign_eq, b64Sign_eq] at hs
  rw [b64Exp_eq, b64Exp_eq] at he
  rw [b64Frac_eq, b64Frac_eq] at hf
  have h1 := a.isLt
  have h2 := b.isLt
  apply BitVec.eq_of_toNat_eq
  have hs' := decide_eq_decide.1 hs
  omega

theorem b64_not_finite (a : Double) : b64Finite a = false ↔ b64IsNaN a = true ∨ b64IsInf a = true := by
  simp [b64Finite, b64IsNaN, b64IsInf]; tauto

theorem b64_finite_not_nan {a : Double} (h : b64Finite a = true) : b64IsNaN a = false := by
  simp [b64Finite, b64IsNaN] at *; tauto

theorem b64_finite_not_inf {a : Double} (h : b64Finite a = true) : b64IsInf a = false := by
  simp [b64Finite, b64IsInf] at *; tauto

theorem b64_nan_not_finite {a : Double} (h : b64IsNaN a = true) : b64Finite a = false :=
  (b64_not_finite a).2 (.inl h)

theorem b64_nan_not_inf {a : Double} (h : b64IsNaN a = true) : b64IsInf a = false := by
  simp [b64IsNaN, b64IsInf] at *; tauto

/-! ### Produced NaNs -/

/-- The pattern of a produced NaN is a NaN (R118). -/
@[simp] theorem b64IsNaN_nanOf (x : Double) : b64IsNaN (nanOf x) = true := by
  have hexp : ∀ y : Double, b64Exp (y ||| 0x7FF0000000000000#64) = 2047 := by
    intro y
    have : (y ||| 0x7FF0000000000000#64).extractLsb' 52 11 = 2047#11 := by
      ext i hi
      simp only [BitVec.getElem_extractLsb', BitVec.getLsbD_or]
      have : (0x7FF0000000000000#64).getLsbD (52 + i) = (2047#11)[i] := by
        revert i; decide
      rw [this]
      have h2 : (2047#11)[i] = true := by revert i; decide
      simp [h2]
    simp [b64Exp, this]
  have hx := hexp x
  unfold nanOf
  simp only
  split
  · have h1 : x ||| 0x7FF0000000000000#64 ||| 1#64 = (x ||| 1#64) ||| 0x7FF0000000000000#64 := by
      ac_rfl
    have h2 := hexp (x ||| 1#64)
    have h3 : b64Frac (x ||| 0x7FF0000000000000#64 ||| 1#64) ≠ 0 := by
      intro h0
      have hb : ((x ||| 0x7FF0000000000000#64 ||| 1#64).extractLsb' 0 52).getLsbD 0 = true := by
        simp
      have : (x ||| 0x7FF0000000000000#64 ||| 1#64).extractLsb' 0 52 = 0#52 := BitVec.eq_of_toNat_eq (by simpa [b64Frac] using h0)
      rw [this] at hb; simp at hb
    simp only [b64IsNaN, Bool.and_eq_true, beq_iff_eq, bne_iff_ne]
    exact ⟨by rw [h1]; exact h2, h3⟩
  · next hne =>
    simp only [b64IsNaN, Bool.and_eq_true, beq_iff_eq, bne_iff_ne]
    refine ⟨hx, fun h0 => hne (BitVec.eq_of_toNat_eq (by simpa [b64Frac] using h0))⟩

/-- Every NaN is one the free value can be: nothing but NaN-ness is fixed (R118, U3). -/
theorem nanOf_of_nan {a : Double} (h : b64IsNaN a = true) : nanOf a = a := by
  simp only [b64IsNaN, Bool.and_eq_true, beq_iff_eq, bne_iff_ne] at h
  have hor : a ||| 0x7FF0000000000000#64 = a := by
    ext i hi
    simp only [BitVec.getElem_or]
    by_cases hb : (0x7FF0000000000000#64)[i] = true
    · have hr : 52 ≤ i ∧ i < 63 := by revert i; decide
      have he : a.extractLsb' 52 11 = 2047#11 := BitVec.eq_of_toNat_eq (by simpa [b64Exp] using h.1)
      have hbit : (a.extractLsb' 52 11).getLsbD (i - 52) = true := by
        rw [he]
        have hj : i - 52 < 11 := by omega
        generalize i - 52 = j at hj
        revert j; decide
      rw [BitVec.getLsbD_extractLsb'] at hbit
      simp only [show 52 + (i - 52) = i by omega, Bool.and_eq_true] at hbit
      rw [← BitVec.getLsbD_eq_getElem hi] at *
      simp [hbit.2]
    · simp [hb]
  unfold nanOf
  simp only [hor]
  rw [if_neg]
  intro h0
  apply h.2
  simp [b64Frac, h0]

@[simp] theorem b64IsNaN_freeNaN (s : State) : b64IsNaN s.freeNaN = true := b64IsNaN_nanOf _

/-! ### How non-finite values spread -/

/-- A finite sum has finite operands, and the NaN pattern played no part in it. -/
theorem b64Add_finite {nan a b : Double} (hn : b64IsNaN nan = true) (h : b64Finite (b64Add nan a b) = true) :
    b64Finite a = true ∧ b64Finite b = true := by
  have hn' := b64_nan_not_finite hn
  by_contra hc
  rw [Classical.not_and_iff_not_or_not, Bool.not_eq_true, Bool.not_eq_true, b64_not_finite, b64_not_finite] at hc
  unfold b64Add at h
  split at h
  · simp_all
  · next hnn =>
    simp only [Bool.or_eq_true, not_or, Bool.not_eq_true] at hnn
    split at h
    · next hi => split at h <;> simp_all [(b64_not_finite a).2 (.inr hi)]
    · split at h
      · next hi => simp_all [(b64_not_finite b).2 (.inr hi)]
      · simp_all

/-- A finite product has finite operands. -/
theorem b64Mul_finite {nan a b : Double} (hn : b64IsNaN nan = true) (h : b64Finite (b64Mul nan a b) = true) :
    b64Finite a = true ∧ b64Finite b = true := by
  have hn' := b64_nan_not_finite hn
  have hinf : ∀ s, b64Finite (b64Inf s) = false := by decide
  have hinf' := hinf (b64Sign a != b64Sign b)
  by_contra hc
  rw [Classical.not_and_iff_not_or_not, Bool.not_eq_true, Bool.not_eq_true, b64_not_finite, b64_not_finite] at hc
  unfold b64Mul at h
  simp only at h
  split at h
  · simp_all
  · next hnn =>
    simp only [Bool.or_eq_true, not_or, Bool.not_eq_true] at hnn
    split at h
    · split at h
      · simp_all
      · rw [hinf'] at h; cases h
    · simp_all

theorem b64Neg_fields (a : Double) :
    b64Sign (b64Neg a) = !b64Sign a ∧ b64Exp (b64Neg a) = b64Exp a ∧ b64Frac (b64Neg a) = b64Frac a := by
  refine ⟨?_, ?_, ?_⟩
  · have : (0x8000000000000000#64).getLsbD 63 = true := by decide
    simp only [b64Sign, b64Neg, BitVec.getLsbD_xor, this, Bool.xor_true]
  · have : (b64Neg a).extractLsb' 52 11 = a.extractLsb' 52 11 := by
      ext i hi
      simp only [b64Neg, BitVec.getElem_extractLsb', BitVec.getLsbD_xor]
      have : (0x8000000000000000#64).getLsbD (52 + i) = false := by revert i; decide
      simp [this]
    simp [b64Exp, this]
  · have : (b64Neg a).extractLsb' 0 52 = a.extractLsb' 0 52 := by
      ext i hi
      simp only [b64Neg, BitVec.getElem_extractLsb', BitVec.getLsbD_xor]
      have : (0x8000000000000000#64).getLsbD (0 + i) = false := by revert i; decide
      rw [this, Bool.xor_false]
    simp [b64Frac, this]

theorem b64Neg_class (a : Double) :
    b64IsNaN (b64Neg a) = b64IsNaN a ∧ b64IsInf (b64Neg a) = b64IsInf a ∧ b64Finite (b64Neg a) = b64Finite a
      ∧ b64Mag (b64Neg a) = b64Mag a := by
  obtain ⟨-, he, hf⟩ := b64Neg_fields a
  simp [b64IsNaN, b64IsInf, b64Finite, b64Mag, he, hf]

theorem b64Int_neg (a : Double) : b64Int (b64Neg a) = -b64Int a := by
  unfold b64Int
  rw [(b64Neg_fields a).1, (b64Neg_class a).2.2.2]
  cases b64Sign a <;> simp

/-! ### Rounding -/

/-- Rounding to an integer is to a nearest one. -/
theorem roundHalfEven_near (k sh : Nat) :
    2 * k ≤ (2 * roundHalfEven k sh + 1) * 2 ^ sh ∧ 2 * roundHalfEven k sh * 2 ^ sh ≤ 2 * k + 2 ^ sh := by
  have hp : 0 < 2 ^ sh := Nat.two_pow_pos sh
  have hd := Nat.div_add_mod k (2 ^ sh)
  have hm := Nat.mod_lt k hp
  unfold roundHalfEven
  simp only
  generalize k / 2 ^ sh = q at *
  generalize k % 2 ^ sh = r at *
  generalize 2 ^ sh = d at *
  subst hd
  split
  · constructor <;> nlinarith
  · split
    · constructor <;> nlinarith
    · have : q % 2 = 0 ∨ q % 2 = 1 := by omega
      rcases this with h | h <;> rw [h] <;> constructor <;> nlinarith

/-- An integer number of places is not changed by rounding. -/
theorem roundHalfEven_mul (m sh : Nat) : roundHalfEven (m * 2 ^ sh) sh = m := by
  have hp : 0 < 2 ^ sh := Nat.two_pow_pos sh
  simp [roundHalfEven, Nat.mul_div_cancel _ hp, hp]

/-- The magnitude bits of a rounded value, as a number. -/
def roundBody (k j : Nat) : Nat :=
  let q := Nat.log2 k - j - 52
  let r := roundHalfEven k (j + q)
  if 2047 * 2 ^ 52 ≤ q * 2 ^ 52 + r then 2047 * 2 ^ 52 else q * 2 ^ 52 + r

theorem roundBody_le (k j : Nat) : roundBody k j ≤ 2047 * 2 ^ 52 := by
  unfold roundBody; simp only; split <;> omega

theorem b64Round_toNat (sign : Bool) (k j : Nat) :
    (b64Round sign k j).toNat = (if sign then 2 ^ 63 else 0) + roundBody k j := by
  have h := roundBody_le k j
  have e : b64Round sign k j = BitVec.ofNat 64 (if sign then 2 ^ 63 + roundBody k j else roundBody k j) := rfl
  rw [e, BitVec.toNat_ofNat]
  cases sign <;> simp <;> omega

theorem b64Round_fields (sign : Bool) (k j : Nat) :
    b64Sign (b64Round sign k j) = sign ∧ b64Exp (b64Round sign k j) = roundBody k j / 2 ^ 52
      ∧ b64Frac (b64Round sign k j) = roundBody k j % 2 ^ 52 := by
  have h := roundBody_le k j
  have ht := b64Round_toNat sign k j
  rw [b64Sign_eq, b64Exp_eq, b64Frac_eq, ht]
  cases sign <;> simp <;> omega

/-- A rounded value is never a NaN. -/
theorem b64Round_not_nan (sign : Bool) (k j : Nat) : b64IsNaN (b64Round sign k j) = false := by
  have h := roundBody_le k j
  obtain ⟨-, he, hf⟩ := b64Round_fields sign k j
  simp only [b64IsNaN, he, hf, Bool.and_eq_false_iff, beq_eq_false_iff_ne, bne_eq_false_iff_eq]
  omega

/-- Rounding to an integer stays between integers. -/
theorem roundHalfEven_bounds {k sh lo hi : Nat} (h1 : lo * 2 ^ sh ≤ k) (h2 : k < hi * 2 ^ sh) :
    lo ≤ roundHalfEven k sh ∧ roundHalfEven k sh ≤ hi := by
  have hp : 0 < 2 ^ sh := Nat.two_pow_pos sh
  have hlo : lo ≤ k / 2 ^ sh := (Nat.le_div_iff_mul_le hp).2 h1
  have hhi : k / 2 ^ sh < hi := (Nat.div_lt_iff_lt_mul hp).2 h2
  unfold roundHalfEven
  simp only
  split
  · omega
  · split <;> omega

/-- The exponent of the last place of a rounded value, in units of 2^−1074. -/
def roundPlace (k j : Nat) : Nat := Nat.log2 k - j - 52

/-- The significand of a rounded value has at most 53 bits, and 53 of them unless the result is subnormal. -/
theorem roundSig_bounds (k j : Nat) :
    roundHalfEven k (j + roundPlace k j) ≤ 2 ^ 53 ∧
      (0 < roundPlace k j → 2 ^ 52 ≤ roundHalfEven k (j + roundPlace k j)) := by
  by_cases hk : k = 0
  · subst hk
    have : roundPlace 0 j = 0 := by simp [roundPlace]
    simp [this, roundHalfEven]
  · have h1 := Nat.log2_self_le hk
    have h2 := Nat.lt_log2_self (n := k)
    by_cases hq : roundPlace k j = 0
    · have hb : Nat.log2 k ≤ j + 52 := by unfold roundPlace at hq; omega
      have h3 : k < 2 ^ 53 * 2 ^ (j + roundPlace k j) := by
        rw [hq, ← Nat.pow_add]
        exact h2.trans_le (Nat.pow_le_pow_right (by omega) (by omega))
      have h4 : 0 * 2 ^ (j + roundPlace k j) ≤ k := by rw [Nat.zero_mul]; exact Nat.zero_le k
      exact ⟨(roundHalfEven_bounds h4 h3).2, fun h => absurd h (by omega)⟩
    · have hb : Nat.log2 k = 52 + (j + roundPlace k j) := by unfold roundPlace at hq ⊢; omega
      have h3 : 2 ^ 52 * 2 ^ (j + roundPlace k j) ≤ k := by rw [← Nat.pow_add, ← hb]; exact h1
      have h4 : k < 2 ^ 53 * 2 ^ (j + roundPlace k j) := by
        rw [← Nat.pow_add]
        exact h2.trans_le (Nat.pow_le_pow_right (by omega) (by omega))
      have := roundHalfEven_bounds h3 h4
      exact ⟨this.2, fun _ => this.1⟩

/-- A rounded value is finite exactly when its magnitude bits are below those of the infinity. -/
theorem b64Round_finite (sign : Bool) (k j : Nat) :
    b64Finite (b64Round sign k j) = true ↔
      roundPlace k j * 2 ^ 52 + roundHalfEven k (j + roundPlace k j) < 2047 * 2 ^ 52 := by
  have hle := roundBody_le k j
  have hb : roundBody k j = if 2047 * 2 ^ 52 ≤ roundPlace k j * 2 ^ 52 + roundHalfEven k (j + roundPlace k j)
      then 2047 * 2 ^ 52 else roundPlace k j * 2 ^ 52 + roundHalfEven k (j + roundPlace k j) := rfl
  simp only [b64Finite, (b64Round_fields sign k j).2.1, bne_iff_ne]
  split at hb <;> omega

/-- The magnitude of a finite rounded value: the rounded significand times its place. -/
theorem b64Round_mag {sign : Bool} {k j : Nat} (h : b64Finite (b64Round sign k j) = true) :
    b64Mag (b64Round sign k j) = roundHalfEven k (j + roundPlace k j) * 2 ^ roundPlace k j := by
  have hlt := (b64Round_finite sign k j).1 h
  obtain ⟨h1, h2⟩ := roundSig_bounds k j
  have hb : roundBody k j = roundPlace k j * 2 ^ 52 + roundHalfEven k (j + roundPlace k j) :=
    if_neg (by unfold roundPlace at hlt; omega)
  unfold b64Mag
  rw [(b64Round_fields sign k j).2.1, (b64Round_fields sign k j).2.2, hb]
  generalize roundPlace k j = q at *
  generalize roundHalfEven k (j + q) = r at *
  by_cases hr : r < 2 ^ 52
  · have hq : q = 0 := by omega
    subst hq
    have e1 : (0 * 2 ^ 52 + r) / 2 ^ 52 = 0 := by omega
    have e2 : (0 * 2 ^ 52 + r) % 2 ^ 52 = r := by omega
    rw [e1, e2]; simp
  · by_cases hr' : r < 2 ^ 53
    · have e1 : (q * 2 ^ 52 + r) / 2 ^ 52 = q + 1 := by omega
      have e2 : (q * 2 ^ 52 + r) % 2 ^ 52 = r - 2 ^ 52 := by omega
      rw [e1, e2, if_neg (by omega), Nat.add_sub_cancel, show 2 ^ 52 + (r - 2 ^ 52) = r by omega]
    · have e0 : r = 2 ^ 53 := by omega
      have e1 : (q * 2 ^ 52 + r) / 2 ^ 52 = q + 2 := by omega
      have e2 : (q * 2 ^ 52 + r) % 2 ^ 52 = 0 := by omega
      rw [e1, e2, if_neg (by omega), e0]
      rw [show q + 2 - 1 = q + 1 by omega, Nat.pow_succ]; ring

/-- A finite number is what its own magnitude rounds to: no rounding changes a representable value. -/
theorem b64Round_self {a : Double} (h : b64Finite a = true) : b64Round (b64Sign a) (b64Mag a) 0 = a := by
  have hE := b64Exp_lt a
  have hF := b64Frac_lt a
  have hne : b64Exp a ≠ 2047 := by simpa [b64Finite] using h
  have hbody : roundBody (b64Mag a) 0 = b64Exp a * 2 ^ 52 + b64Frac a := by
    have hq : roundPlace (b64Mag a) 0 = b64Exp a - 1 ∧
        b64Mag a = (b64Exp a * 2 ^ 52 + b64Frac a - (b64Exp a - 1) * 2 ^ 52) * 2 ^ (b64Exp a - 1) := by
      unfold b64Mag roundPlace
      by_cases h0 : b64Exp a = 0
      · rw [if_pos h0, h0]
        have : Nat.log2 (b64Frac a) < 53 := by
          by_cases hz : b64Frac a = 0
          · rw [hz]; decide
          · exact (Nat.log2_lt hz).2 (by omega)
        exact ⟨by omega, by simp⟩
      · rw [if_neg h0]
        have hl : Nat.log2 ((2 ^ 52 + b64Frac a) * 2 ^ (b64Exp a - 1)) = 52 + (b64Exp a - 1) := by
          have hne0 : (2 ^ 52 + b64Frac a) * 2 ^ (b64Exp a - 1) ≠ 0 :=
            Nat.mul_ne_zero (by omega) (Nat.two_pow_pos _).ne'
          refine (Nat.log2_eq_iff hne0).2 ⟨?_, ?_⟩
          · rw [Nat.pow_add]; exact Nat.mul_le_mul_right _ (by omega)
          · rw [show 52 + (b64Exp a - 1) + 1 = 53 + (b64Exp a - 1) by omega, Nat.pow_add]
            exact Nat.mul_lt_mul_of_pos_right (by omega) (Nat.two_pow_pos _)
        exact ⟨by omega, by congr 1; omega⟩
    have hr : roundHalfEven (b64Mag a) (0 + roundPlace (b64Mag a) 0) =
        b64Exp a * 2 ^ 52 + b64Frac a - (b64Exp a - 1) * 2 ^ 52 := by
      rw [hq.1, Nat.zero_add]
      conv_lhs => rw [hq.2]
      exact roundHalfEven_mul _ _
    have hb : roundBody (b64Mag a) 0 = if 2047 * 2 ^ 52 ≤ roundPlace (b64Mag a) 0 * 2 ^ 52 +
        roundHalfEven (b64Mag a) (0 + roundPlace (b64Mag a) 0) then 2047 * 2 ^ 52
        else roundPlace (b64Mag a) 0 * 2 ^ 52 + roundHalfEven (b64Mag a) (0 + roundPlace (b64Mag a) 0) := rfl
    rw [hb, hr, hq.1, if_neg (by omega)]
    omega
  obtain ⟨h1, h2, h3⟩ := b64Round_fields (b64Sign a) (b64Mag a) 0
  refine double_ext h1 ?_ ?_
  · rw [h2, hbody]; omega
  · rw [h3, hbody]; omega

/-- Half way between two integers the even one results. -/
theorem roundHalfEven_tie {k sh m : Nat} (h : 2 * k = (2 * m + 1) * 2 ^ sh) : roundHalfEven k sh = m + m % 2 := by
  have hp : 0 < 2 ^ sh := Nat.two_pow_pos sh
  have hk : k / 2 ^ sh = m := by
    refine Nat.div_eq_of_lt_le ?_ ?_ <;> nlinarith
  have hr : 2 * (k % 2 ^ sh) = 2 ^ sh := by
    have := Nat.div_add_mod k (2 ^ sh)
    rw [hk] at this; nlinarith
  simp only [roundHalfEven, hk, hr, lt_irrefl, if_false]

/-- A rounded integer exactly one half away is even. -/
theorem roundHalfEven_even {k sh : Nat} (h : 2 * k = (2 * roundHalfEven k sh + 1) * 2 ^ sh ∨
    2 * roundHalfEven k sh * 2 ^ sh = 2 * k + 2 ^ sh) : roundHalfEven k sh % 2 = 0 := by
  have hp : 0 < 2 ^ sh := Nat.two_pow_pos sh
  rcases h with h | h
  · have := roundHalfEven_tie h; omega
  · have hr : roundHalfEven k sh ≠ 0 := by intro h0; rw [h0] at h; omega
    obtain ⟨m, hm⟩ := Nat.exists_eq_succ_of_ne_zero hr
    have h2 : 2 * k = (2 * m + 1) * 2 ^ sh := by rw [hm, Nat.succ_eq_add_one] at h; nlinarith
    have := roundHalfEven_tie h2; omega

theorem b64Mag_eq_zero (a : Double) : b64Mag a = 0 ↔ b64IsZero a = true := by
  unfold b64Mag b64IsZero
  by_cases h : b64Exp a = 0
  · simp [h]
  · simp [h]

/-- A rounded value is finite exactly below the largest finite value plus half of its last place (R113). -/
theorem b64Round_finite_iff (sign : Bool) (k j : Nat) :
    b64Finite (b64Round sign k j) = true ↔ k < (2 ^ 54 - 1) * 2 ^ (2044 + j) := by
  rw [b64Round_finite]
  have hs := roundSig_bounds k j
  have hn := roundHalfEven_near k (j + roundPlace k j)
  have hup := Nat.lt_log2_self (n := k)
  rcases Nat.lt_trichotomy (roundPlace k j) 2045 with hq | hq | hq
  · refine iff_of_true (by omega) ?_
    have hl : Nat.log2 k + 1 ≤ 53 + (2044 + j) := by unfold roundPlace at hq; omega
    refine (hup.trans_le (Nat.pow_le_pow_right (by omega) hl)).trans_le ?_
    rw [Nat.pow_add]
    generalize 2 ^ (2044 + j) = d
    exact Nat.mul_le_mul_right d (by decide)
  · have he : 2 ^ (j + roundPlace k j) = 2 * 2 ^ (2044 + j) := by
      rw [hq, show j + 2045 = (2044 + j) + 1 by omega, Nat.pow_succ, Nat.mul_comm]
    have ht : ∀ m, 2 * k = (2 * m + 1) * 2 ^ (j + roundPlace k j) →
        roundHalfEven k (j + roundPlace k j) = m + m % 2 := fun m => roundHalfEven_tie
    rw [he] at hn ht
    generalize roundHalfEven k (j + roundPlace k j) = r at *
    have hp : 0 < 2 ^ (2044 + j) := Nat.two_pow_pos _
    generalize 2 ^ (2044 + j) = d at *
    rw [hq]
    constructor
    · intro h
      have hr : r ≤ 2 ^ 53 - 1 := by omega
      by_contra hc
      have hc : (2 ^ 54 - 1) * d ≤ k := Nat.le_of_not_lt hc
      have hr2 : r = 2 ^ 53 - 1 := by
        by_contra hne
        have := Nat.mul_le_mul_right d (show 2 * r + 1 ≤ 2 ^ 54 - 3 by omega)
        have h1 : 2 * k ≤ 2 * ((2 * r + 1) * d) := hn.1.trans_eq (by ring)
        omega
      have h2 := ht (2 ^ 53 - 1) (by have h1 := hn.1; rw [hr2] at h1; omega)
      omega
    · intro h
      have : r < 2 ^ 53 := by
        by_contra hc
        have := Nat.mul_le_mul_right d (show 2 ^ 54 ≤ 2 * r by omega)
        have h1 : 2 * (2 * r * d) ≤ 2 * k + 2 * d := le_trans (by rw [show 2 * (2 * r * d) = 2 * r * (2 * d) by ring]) hn.2
        omega
      omega
  · refine iff_of_false (by have := hs.2 (by omega); omega) ?_
    have hk : k ≠ 0 := by
      rintro rfl
      have h0 : roundPlace 0 j = 0 := by simp [roundPlace]
      rw [h0] at hq; exact absurd hq (by decide)
    have hl : 54 + (2044 + j) ≤ Nat.log2 k := by unfold roundPlace at hq; omega
    refine Nat.not_lt.2 (le_trans ?_ ((Nat.pow_le_pow_right (by omega) hl).trans (Nat.log2_self_le hk)))
    rw [Nat.pow_add 2 54]
    generalize 2 ^ (2044 + j) = d
    exact Nat.mul_le_mul_right d (by decide)

/-- A rounded value that is not finite is the infinity of its sign. -/
theorem b64Round_inf {sign : Bool} {k j : Nat} (h : b64Finite (b64Round sign k j) = false) :
    b64Round sign k j = b64Inf sign := by
  have hb : roundBody k j = 2047 * 2 ^ 52 := by
    have hle := roundBody_le k j
    have : ¬ b64Finite (b64Round sign k j) = true := by simp [h]
    simp only [b64Finite, (b64Round_fields sign k j).2.1, bne_iff_ne, ne_eq, not_not] at this
    omega
  apply BitVec.eq_of_toNat_eq
  rw [b64Round_toNat, hb]
  cases sign <;> simp [b64Inf]

/-! ### The NaN pattern and the results -/

theorem sameNum.refl (a : Double) : sameNum a a := .inl rfl

/-- Equal up to NaN bits: finite alike. -/
theorem sameNum_finite {a b : Double} (h : sameNum a b) : b64Finite a = b64Finite b := by
  rcases h with rfl | ⟨h1, h2⟩
  · rfl
  · rw [b64_nan_not_finite h1, b64_nan_not_finite h2]

theorem sameNum_of_finite {a b : Double} (h : sameNum a b) (hf : b64Finite a = true) : a = b := by
  rcases h with rfl | ⟨h1, -⟩
  · rfl
  · rw [b64_nan_not_finite h1] at hf; cases hf

/-- Addition respects equality up to NaN bits, whatever the NaN patterns are (R118). -/
theorem sameNum_add {nan nan' a a' b b' : Double} (hn : b64IsNaN nan = true) (hn' : b64IsNaN nan' = true)
    (ha : sameNum a a') (hb : sameNum b b') : sameNum (b64Add nan a b) (b64Add nan' a' b') := by
  have nanl : ∀ n x y, b64IsNaN x = true → b64Add n x y = n := by intro n x y h; simp [b64Add, h]
  have nanr : ∀ n x y, b64IsNaN y = true → b64Add n x y = n := by intro n x y h; simp [b64Add, h]
  rcases ha with rfl | ⟨h1, h2⟩
  · rcases hb with rfl | ⟨h1, h2⟩
    · unfold b64Add
      split
      · exact .inr ⟨hn, hn'⟩
      · split
        · split
          · exact .inr ⟨hn, hn'⟩
          · exact .inl rfl
        · exact .inl rfl
    · rw [nanr _ _ _ h1, nanr _ _ _ h2]; exact .inr ⟨hn, hn'⟩
  · rw [nanl _ _ _ h1, nanl _ _ _ h2]; exact .inr ⟨hn, hn'⟩

/-- Multiplication respects equality up to NaN bits. -/
theorem sameNum_mul {nan nan' a a' b b' : Double} (hn : b64IsNaN nan = true) (hn' : b64IsNaN nan' = true)
    (ha : sameNum a a') (hb : sameNum b b') : sameNum (b64Mul nan a b) (b64Mul nan' a' b') := by
  have nanl : ∀ n x y, b64IsNaN x = true → b64Mul n x y = n := by intro n x y h; simp [b64Mul, h]
  have nanr : ∀ n x y, b64IsNaN y = true → b64Mul n x y = n := by intro n x y h; simp [b64Mul, h]
  rcases ha with rfl | ⟨h1, h2⟩
  · rcases hb with rfl | ⟨h1, h2⟩
    · unfold b64Mul
      simp only
      split
      · exact .inr ⟨hn, hn'⟩
      · split
        · split
          · exact .inr ⟨hn, hn'⟩
          · exact .inl rfl
        · exact .inl rfl
    · rw [nanr _ _ _ h1, nanr _ _ _ h2]; exact .inr ⟨hn, hn'⟩
  · rw [nanl _ _ _ h1, nanl _ _ _ h2]; exact .inr ⟨hn, hn'⟩

theorem sameNum_neg {a b : Double} (h : sameNum a b) : sameNum (b64Neg a) (b64Neg b) := by
  rcases h with rfl | ⟨h1, h2⟩
  · exact .inl rfl
  · exact .inr ⟨by rw [(b64Neg_class a).1, h1], by rw [(b64Neg_class b).1, h2]⟩

/-- Subtraction respects equality up to NaN bits. -/
theorem sameNum_sub {nan nan' a a' b b' : Double} (hn : b64IsNaN nan = true) (hn' : b64IsNaN nan' = true)
    (ha : sameNum a a') (hb : sameNum b b') : sameNum (b64Sub nan a b) (b64Sub nan' a' b') :=
  sameNum_add hn hn' ha (sameNum_neg hb)

/-! ### The NUM of an implementation -/

@[simp] theorem byFormat_default {β : Type} (d o : β) : byFormat Config.defaultFmt d o = d := if_pos rfl

theorem byFormat_other {β : Type} {fmt : BitVec 8} (h : fmt ≠ Config.defaultFmt) (d o : β) : byFormat fmt d o = o := if_neg h

/-- Code 1 is binary64. -/
@[simp] theorem numOf_default (nan : Double) : numOf Config.defaultFmt nan = binary64 nan := rfl

/-- Every other code is the argument of the model; no NaN pattern enters it. -/
theorem numOf_other {fmt : BitVec 8} (h : fmt ≠ Config.defaultFmt) (nan : Double) : numOf fmt nan = otherNum fmt := by
  simp only [numOf, byFormat_other h]

/-! Only `add`, `sub` and `mul` know the NaN pattern: the other members of a pass's NUM are the implementation's. -/

@[simp] theorem num_zero (s : State) : s.num.zero = s.zero := rfl
@[simp] theorem num_cvt (s : State) : s.num.cvt = s.format.cvt := rfl
@[simp] theorem num_finite (s : State) : s.num.finite = s.format.finite := rfl
@[simp] theorem num_q16 (s : State) : s.num.q16 = s.format.q16 := rfl
@[simp] theorem num_enc (s : State) : s.num.enc = s.format.enc := rfl
@[simp] theorem num_dec (s : State) : s.num.dec = s.format.dec := rfl

theorem format_of_default {s : State} (h : s.capFmt = 1#8) : s.format = binary64 0#64 := by
  unfold State.format; rw [h]; rfl

theorem num_of_default {s : State} (h : s.capFmt = 1#8) : s.num = binary64 s.freeNaN := by
  unfold State.num; rw [h]; rfl

/-! ### Results of an implementation do not depend on the NaN pattern (R118, R126) -/

theorem sameCode_default (a b : NumCode) : sameCode 1#8 a b ↔ sameNum a b := by simp [sameCode]

theorem sameCode_other {fmt : BitVec 8} (h : fmt ≠ 1#8) (a b : NumCode) : sameCode fmt a b ↔ a = b := by simp [sameCode, h]

theorem sameCode.refl (fmt : BitVec 8) (a : NumCode) : sameCode fmt a a := by
  unfold sameCode; split
  · exact sameNum.refl a
  · rfl

theorem sameCode_finite {fmt : BitVec 8} {a b : NumCode} (h : sameCode fmt a b) (n n' : Double) :
    (numOf fmt n).finite a = (numOf fmt n').finite b := by
  by_cases hf : fmt = 1#8
  · subst hf; exact sameNum_finite ((sameCode_default a b).1 h)
  · rw [(sameCode_other hf a b).1 h]; rfl

section

variable {fmt : BitVec 8} {nan nan' : Double} {a a' b b' : NumCode}

theorem sameCode_add (hn : b64IsNaN nan = true) (hn' : b64IsNaN nan' = true) (ha : sameCode fmt a a')
    (hb : sameCode fmt b b') : sameCode fmt ((numOf fmt nan).add a b) ((numOf fmt nan').add a' b') := by
  by_cases hf : fmt = 1#8
  · subst hf
    exact (sameCode_default _ _).2 (sameNum_add hn hn' ((sameCode_default a a').1 ha) ((sameCode_default b b').1 hb))
  · rw [(sameCode_other hf a a').1 ha, (sameCode_other hf b b').1 hb, numOf_other hf, numOf_other hf]
    exact sameCode.refl _ _

theorem sameCode_sub (hn : b64IsNaN nan = true) (hn' : b64IsNaN nan' = true) (ha : sameCode fmt a a')
    (hb : sameCode fmt b b') : sameCode fmt ((numOf fmt nan).sub a b) ((numOf fmt nan').sub a' b') := by
  by_cases hf : fmt = 1#8
  · subst hf
    exact (sameCode_default _ _).2 (sameNum_sub hn hn' ((sameCode_default a a').1 ha) ((sameCode_default b b').1 hb))
  · rw [(sameCode_other hf a a').1 ha, (sameCode_other hf b b').1 hb, numOf_other hf, numOf_other hf]
    exact sameCode.refl _ _

theorem sameCode_mul (hn : b64IsNaN nan = true) (hn' : b64IsNaN nan' = true) (ha : sameCode fmt a a')
    (hb : sameCode fmt b b') : sameCode fmt ((numOf fmt nan).mul a b) ((numOf fmt nan').mul a' b') := by
  by_cases hf : fmt = 1#8
  · subst hf
    exact (sameCode_default _ _).2 (sameNum_mul hn hn' ((sameCode_default a a').1 ha) ((sameCode_default b b').1 hb))
  · rw [(sameCode_other hf a a').1 ha, (sameCode_other hf b b').1 hb, numOf_other hf, numOf_other hf]
    exact sameCode.refl _ _

end

end Sys2Proof.Machine
end

