-- ==== Sys2Proof/Laws/PerInstr.lean ====
section
/-! SUPPORT. Facts of every command as syntax, one lemma per constructor. -/

namespace Sys2Proof.Laws.LegalWord

/-- The word of a command is legal (R94) and uses no bit above `REF` (R90, R92). -/
def Statement (i : Instr) : Prop := i.wellFormed = true ∧ (encode i).toNat < 512

theorem nop : Statement .nop := ⟨by decide, by decide⟩
theorem configure : Statement .configure := ⟨by decide, by decide⟩
theorem dispose : Statement .dispose := ⟨by decide, by decide⟩
theorem resetw : Statement .resetw := ⟨by decide, by decide⟩
theorem estimate : Statement .estimate := ⟨by decide, by decide⟩
theorem residual (ref : Bool) : Statement (.residual ref) := by cases ref <;> exact ⟨by decide, by decide⟩
theorem adapt : Statement .adapt := ⟨by decide, by decide⟩
theorem process (ref : Bool) : Statement (.process ref) := by cases ref <;> exact ⟨by decide, by decide⟩
theorem clrerr : Statement .clrerr := ⟨by decide, by decide⟩

end Sys2Proof.Laws.LegalWord
end

