-- ==== Sys2Proof/Laws/Port.lean ====
section
/-! SUPPORT. What the host port, the engine's step and one step of the machine can do, once each; the fields of an offset as
arithmetic on it. -/

namespace Sys2Proof.Machine

/-! ### The fields of an offset -/

/-- The region of an offset, by its quotient. -/
theorem regionOf_eq (a : Offset) : regionOf a =
    match a.toNat / 65536 with
    | 0 => .csr
    | 1 => .xbuf
    | 2 => .dbuf
    | 3 => .wmem
    | 4 => .ybuf
    | 5 => .ebuf
    | 6 => .obuf
    | 7 => .tdl
    | _ => .reserved := by
  have h : (a.extractLsb' 16 4).toNat = a.toNat / 65536 := by
    have := a.isLt
    rw [BitVec.extractLsb'_toNat, Nat.shiftRight_eq_div_pow]; omega
  simp only [regionOf, h] <;> rfl

theorem aligned_eq (a : Offset) : aligned a = decide (a.toNat % 4 = 0) := by simp [aligned, BitVec.toNat_eq]

theorem sampleIndex_eq (a : Offset) : sampleIndex a = a.toNat % 65536 / 4 := by
  have := a.isLt
  rw [sampleIndex, BitVec.extractLsb'_toNat, Nat.shiftRight_eq_div_pow]; omega

theorem numIndex_eq (a : Offset) : numIndex a = a.toNat % 65536 / 8 := by
  have := a.isLt
  rw [numIndex, BitVec.extractLsb'_toNat, Nat.shiftRight_eq_div_pow]; omega

theorem halfSelect_eq (a : Offset) : halfSelect a = decide (a.toNat / 4 % 2 = 1) := by
  simp [halfSelect, BitVec.getLsbD, Nat.testBit_eq_decide_div_mod_eq]

/-- `CMD` is aligned, in the register region, and the register of R29. -/
theorem cmdOffset_facts : aligned cmdOffset = true ∧ regionOf cmdOffset = .csr ∧ csrOf cmdOffset = some .cmd := by decide

/-- A write to `CMD` is refused exactly while `BUSY` = 1 (R66). -/
theorem writeError_cmd (v : Word) (s : State) :
    writeError cmdOffset v s = if s.busy then some .lockedWhileBusy else none := by
  obtain ⟨h1, h2, h3⟩ := cmdOffset_facts
  cases hb : s.busy <;> simp [writeError, h1, h2, csrWriteError, h3, Csr.readOnly, Csr.isConfig, hb]

/-- A permitted access to a buffer meets an engine that is constructed and idle, at an index within the depth. -/
theorem bufferError_none {a : Offset} {s : State} (h : bufferError a s = none) :
    s.st ≠ .unconfigured ∧ s.busy = false ∧ regionIndexOk (regionOf a) a s = true := by
  unfold bufferError at h
  split at h
  · cases h
  · split at h
    · cases h
    · split at h
      · cases h
      · rename_i h1 h2 h3
        exact ⟨h1, by simpa using h2, by simpa using h3⟩

/-- A permitted write outside the register region is to `XBUF`, `DBUF` or `WMEM`, and was permitted there. -/
theorem writeError_none {a : Offset} {v : Word} {s : State} (h : writeError a v s = none) :
    (regionOf a = .csr ∧ csrWriteError a s = none) ∨
      ((regionOf a = .xbuf ∨ regionOf a = .dbuf) ∧ bufferError a s = none ∧ isSext16 v = true) ∨
      (regionOf a = .wmem ∧ bufferError a s = none) := by
  unfold writeError at h
  split at h
  · cases h
  · split at h
    · cases h
    · rename_i hr; exact .inl ⟨hr, h⟩
    · rename_i hr
      split at h
      · cases h
      · rename_i hb
        split at h
        · rename_i hx; exact .inr (.inl ⟨.inl hr, hb, hx⟩)
        · cases h
    · rename_i hr
      split at h
      · cases h
      · rename_i hb
        split at h
        · rename_i hx; exact .inr (.inl ⟨.inr hr, hb, hx⟩)
        · cases h
    · rename_i hr; exact .inr (.inr ⟨hr, h⟩)
    all_goals
      split at h <;> cases h

/-! ### The operations -/

/-- A host read changes the answers alone. -/
theorem hostRead_cases (a : Offset) (s : State) :
    (readError a s ≠ none ∧ hostRead a s = respond .err s) ∨
      (readError a s = none ∧ hostRead a s = respond (.value (readValue a s)) s) := by
  rcases h : readError a s with _ | e
  · exact .inr ⟨rfl, by simp [hostRead, h]⟩
  · exact .inl ⟨by simp, by simp [hostRead, h]⟩

/-- A host write: refused, a command delivered while idle, or the effect of R84 on a register or a buffer. -/
theorem hostWrite_cases (a : Offset) (v : Word) (s : State) :
    (writeError a v s ≠ none ∧ hostWrite a v s = .next (respond .err s)) ∨
      (a = cmdOffset ∧ s.busy = false ∧ (∃ why, decode v = .error why) ∧
        hostWrite a v s = .next (raiseError .illegal v (respond .done s))) ∨
      (∃ i, a = cmdOffset ∧ s.busy = false ∧ decode v = .ok i ∧ hostWrite a v s = exec i (respond .done s)) ∨
      (a ≠ cmdOffset ∧ writeError a v s = none ∧ hostWrite a v s = .next (respond .done (writeEffect a v s))) := by
  rcases h : writeError a v s with _ | e
  · by_cases hc : a = cmdOffset
    · have hw : hostWrite a v s = dispatch v (respond .done s) := by simp only [hostWrite, h]; exact if_pos hc
      have hb : s.busy = false := by
        subst hc
        rw [writeError_cmd] at h
        cases hb : s.busy
        · rfl
        · simp [hb] at h
      rcases hd : decode v with why | i
      · exact .inr (.inl ⟨hc, hb, ⟨why, rfl⟩, by simp only [hw, dispatch, hd]⟩)
      · exact .inr (.inr (.inl ⟨i, hc, hb, rfl, by simp only [hw, dispatch, hd]⟩))
    · exact .inr (.inr (.inr ⟨hc, rfl, by simp only [hostWrite, h, hc, if_false]⟩))
  · exact .inl ⟨by simp, by simp [hostWrite, h]⟩

/-- The engine: nothing while idle, the command in `PEND`, or the stop at a state no AFE reaches. -/
theorem engineStep_cases (s : State) :
    (s.busy = false ∧ engineStep s = .next s) ∨
      (∃ i, s.busy = true ∧ decode s.pend = .ok i ∧ i.isLong = true ∧ engineStep s = exec i s) ∨
      (s.busy = true ∧ engineStep s = .fault .pendNotLong) := by
  cases hb : s.busy
  · exact .inl ⟨rfl, by simp [engineStep, hb]⟩
  · rcases hd : decode s.pend with why | i
    · exact .inr (.inr ⟨rfl, by simp [engineStep, hb, hd]⟩)
    · cases hl : i.isLong
      · exact .inr (.inr ⟨rfl, by simp [engineStep, hb, hd, hl]⟩)
      · exact .inr (.inl ⟨i, rfl, rfl, hl, by simp [engineStep, hb, hd, hl]⟩)

/-- One step: the next event on the state that no longer lists it, or the engine's step. -/
theorem step_cases (s : State) :
    (s.inputs = [] ∧ step s = engineStep s) ∨
      ∃ e rest, s.inputs = e :: rest ∧ step s = runEvent e { s with inputs := rest } := by
  rcases h : s.inputs with _ | ⟨e, rest⟩
  · exact .inl ⟨rfl, by simp [step, runNext, h]⟩
  · exact .inr ⟨e, rest, rfl, by simp only [step, runNext, h]⟩

/-! ### `exec` while busy: the completion of each long command -/

theorem exec_configure_busy {s : State} (h : s.busy = true) :
    exec .configure s = .next (completeCommand (configureBody s)) := (exec_configure s).trans (runLong_busy h)
theorem exec_resetw_busy {s : State} (h : s.busy = true) :
    exec .resetw s = .next (completeCommand (resetwBody s)) := (exec_resetw s).trans (runLong_busy h)
theorem exec_estimate_busy {s : State} (h : s.busy = true) :
    exec .estimate s = .next (completeCommand (estimateBody s).1) := (exec_estimate s).trans (runLong_busy h)
theorem exec_residual_busy {ref : Bool} {s : State} (h : s.busy = true) :
    exec (.residual ref) s = .next (completeCommand (residualBody ref s).1) := (exec_residual ref s).trans (runLong_busy h)
theorem exec_adapt_busy {s : State} (h : s.busy = true) :
    exec .adapt s = .next (completeCommand (adaptBody s).1) := (exec_adapt s).trans (runLong_busy h)
theorem exec_process_busy {ref : Bool} {s : State} (h : s.busy = true) :
    exec (.process ref) s = .next (completeCommand (processBody ref s).1) := (exec_process ref s).trans (runLong_busy h)

/-! ### The configuration mask -/

/-- A word of six bits below 26 zeros is 0 exactly when the six are. -/
theorem sixBits_zero : ∀ a b c d e f : Bool,
    (0#26 ++ BitVec.ofBool a ++ BitVec.ofBool b ++ BitVec.ofBool c ++ BitVec.ofBool d ++ BitVec.ofBool e
      ++ BitVec.ofBool f : BitVec 32) = 0#32 ↔
      a = false ∧ b = false ∧ c = false ∧ d = false ∧ e = false ∧ f = false := by decide

end Sys2Proof.Machine
end

