-- ==== Sys2Proof/Laws/Values.lean ====
section
/-! SUPPORT. Every NUM element and register holds a value of the implementation's NUM (R110, R121): what every operation on them
keeps. -/

namespace Sys2Proof.Machine

/-! ### A NUM over the codes of its values -/

/-- Everything a NUM gives is a value. -/
structure NumClosed (F : NumOps NumCode) : Prop where
  zero : isValue F F.zero
  add : ∀ a b, isValue F (F.add a b)
  sub : ∀ a b, isValue F (F.sub a b)
  mul : ∀ a b, isValue F (F.mul a b)
  dec : ∀ b, isValue F (F.dec b)

/-- binary64 holds every pattern as itself, so it is its own encoded form. -/
theorem encoded_binary64 (nan : Double) : encoded (binary64 nan) = binary64 nan := rfl

/-- A format that meets the laws, over the codes of its values, gives values only. -/
theorem encoded_closed {α : Type} {F : NumOps α} (h : NumLaws F) : NumClosed (encoded F) := by
  constructor <;> intros <;> simp [isValue, encoded, h.dec_enc]

/-- An accepted pattern is kept whole: encoding undoes decoding on every pattern that encodes a value (R74, R121). -/
theorem encoded_enc_dec {α : Type} {F : NumOps α} (h : NumLaws F) (a : α) : (encoded F).enc ((encoded F).dec (F.enc a)) = F.enc a := by
  simp [encoded, h.dec_enc]

theorem numOf_closed (fmt : BitVec 8) (nan : Double) : NumClosed (numOf fmt nan) := by
  by_cases h : fmt = Config.defaultFmt
  · subst h; exact ⟨rfl, fun _ _ => rfl, fun _ _ => rfl, fun _ _ => rfl, fun _ => rfl⟩
  · rw [numOf_other h]; exact encoded_closed (otherFormat fmt).laws

theorem format_closed (s : State) : NumClosed s.format := numOf_closed _ _

theorem num_closed (s : State) : NumClosed s.num := numOf_closed _ _

/-! ### Buffers -/

/-- Every element of a NUM buffer is a value. -/
def BufValues (F : NumOps NumCode) (b : Buf NumCode) : Prop := ∀ i, isValue F (bufGet F.zero b i)

theorem bufValues_bufSet {F : NumOps NumCode} {b : Buf NumCode} (h : BufValues F b) (i : Nat) {v : NumCode} (hv : isValue F v) :
    BufValues F (bufSet F.zero b i v) := fun j => by
  rw [bufGet_bufSet]; split
  · exact hv
  · exact h j

theorem bufValues_bufClear {F : NumOps NumCode} {b : Buf NumCode} (h : BufValues F b) (hF : NumClosed F) (n : Nat) :
    BufValues F (bufClear n b) := fun j => by
  rw [bufGet_bufClear]; split
  · exact hF.zero
  · exact h j

theorem bufValues_bufOf {F : NumOps NumCode} (hF : NumClosed F) (n : Nat) {f : Nat → NumCode} (h : ∀ i, isValue F (f i)) :
    BufValues F (bufOf F.zero n f) := fun j => by
  rcases bufGet_mem_or F.zero (bufOf F.zero n f) j with hm | he
  · obtain ⟨i, -, hi⟩ := List.mem_filterMap.1 hm
    split at hi
    · cases hi
    · rw [← (Prod.mk.inj (Option.some.inj hi)).2]; exact h i
  · rw [he]; exact hF.zero

/-! ### The passes -/

/-- The NUM values a pass works on. -/
structure DatapathValues (F : NumOps NumCode) (d : Datapath NumCode) : Prop where
  wmem : BufValues F d.wmem
  ybuf : BufValues F d.ybuf
  ebuf : BufValues F d.ebuf
  acc : isValue F d.acc
  g : isValue F d.g

variable {F : NumOps NumCode} (hF : NumClosed F)
include hF

theorem estPass_values {N L : Nat} (x : Nat → Sample) {d : Datapath NumCode} (h : DatapathValues F d) :
    DatapathValues F (estPass F N L x d).1 := by
  refine loopUntil_keeps _ _ _ _ ⟨h.wmem, h.ybuf, h.ebuf, h.acc, h.g⟩ fun j d _ hd => ?_
  have hacc : ∀ (w : Buf NumCode) (t : Buf Sample) (c : Nat), isValue F ((List.range c).foldl
      (fun acc k => F.add acc (F.mul (bufGet F.zero w k) (F.cvt (bufGet 0#16 t k)))) F.zero) := by
    intro w t c
    cases c with
    | zero => exact hF.zero
    | succ c => rw [List.range_succ, List.foldl_append]; exact hF.add _ _
  simp only [estSample, estTaps_eq]
  split <;> exact ⟨hd.wmem, bufValues_bufSet hd.ybuf _ (hacc _ _ _), hd.ebuf, hacc _ _ _, hd.g⟩

theorem resPass_values {N : Nat} (src : Nat → Sample) {d : Datapath NumCode} (h : DatapathValues F d) :
    DatapathValues F (resPass F N src d).1 := by
  refine loopUntil_keeps _ _ _ _ ⟨h.wmem, h.ybuf, h.ebuf, h.acc, h.g⟩ fun j d _ hd => ?_
  simp only [resSample]
  split <;> exact ⟨hd.wmem, hd.ybuf, bufValues_bufSet hd.ebuf _ (hF.sub _ _), hd.acc, hd.g⟩

theorem adpPass_values (mu : NumCode) {N L : Nat} (x : Nat → Sample) {d : Datapath NumCode} (h : DatapathValues F d) :
    DatapathValues F (adpPass F mu N L x d).1 := by
  refine loopUntil_keeps _ _ _ _ ⟨h.wmem, h.ybuf, h.ebuf, h.acc, h.g⟩ fun j d _ hd => ?_
  have hin := loopUntil_keeps (adpTap F j) (DatapathValues F) L
    { d with tdl := shiftIn L (x j) d.tdl, g := F.mul mu (bufGet F.zero d.ebuf j) }
    ⟨hd.wmem, hd.ybuf, hd.ebuf, hd.acc, hF.mul _ _⟩ fun k d _ hd => by
      simp only [adpTap]
      split <;> exact ⟨bufValues_bufSet hd.wmem _ (hF.add _ _), hd.ybuf, hd.ebuf, hd.acc, hd.g⟩
  simp only [adpSample]
  rcases hl : loopUntil (adpTap F j) 0 L
    { d with tdl := shiftIn L (x j) d.tdl, g := F.mul mu (bufGet F.zero d.ebuf j) } with ⟨d2, _ | e⟩ <;>
    rw [hl] at hin
  · exact ⟨hin.wmem, hin.ybuf, hin.ebuf, hin.acc, hin.g⟩
  · exact hin

omit hF

/-! ### The state -/

theorem reset_numbersOk : State.reset.NumbersOk := ⟨fun _ => rfl, fun _ => rfl, fun _ => rfl, rfl, rfl⟩

/-- `State.NumbersOk` looks at the NUM, the three NUM buffers and the two working registers alone. -/
theorem numbersOk_congr {s t : State} (h : s.NumbersOk) (hf : t.capFmt = s.capFmt) (hw : t.wmem = s.wmem) (hy : t.ybuf = s.ybuf)
    (he : t.ebuf = s.ebuf) (ha : t.acc = s.acc) (hg : t.g = s.g) : t.NumbersOk := by
  have hF : t.format = s.format := by unfold State.format; rw [hf]
  have hz : t.zero = s.zero := by unfold State.zero; rw [hF]
  refine ⟨fun k => ?_, fun n => ?_, fun n => ?_, ?_, ?_⟩
  · rw [hF, State.wAt, hz, hw]; exact h.wmem k
  · rw [hF, State.yAt, hz, hy]; exact h.ybuf n
  · rw [hF, State.eAt, hz, he]; exact h.ebuf n
  · rw [hF, ha]; exact h.acc
  · rw [hF, hg]; exact h.g

/-- The free values of the hidden registers are values; nothing is asked of the state but its buffers. -/
theorem freeRegisters_numbersOk {s : State} (hw : BufValues s.format s.wmem) (hy : BufValues s.format s.ybuf)
    (he : BufValues s.format s.ebuf) : (freeRegisters s).NumbersOk :=
  ⟨hw, hy, he, (format_closed s).dec _, (format_closed s).dec _⟩

theorem completeCommand_numbersOk {s : State} (h : s.NumbersOk) : (completeCommand s).NumbersOk :=
  freeRegisters_numbersOk h.wmem h.ybuf h.ebuf

theorem freeBuffers_numbersOk {s : State} (h : s.NumbersOk) : (freeBuffers s).NumbersOk :=
  have hF := format_closed s
  ⟨bufValues_bufOf hF _ fun _ => hF.dec _, bufValues_bufOf hF _ fun _ => hF.dec _, bufValues_bufOf hF _ fun _ => hF.dec _, h.acc,
    h.g⟩

theorem disposeBody_numbersOk {s : State} (h : s.NumbersOk) : (disposeBody s).NumbersOk :=
  freeBuffers_numbersOk (s := { s with st := .unconfigured, yFresh := false, eFresh := false, eRef := false })
    ⟨h.wmem, h.ybuf, h.ebuf, h.acc, h.g⟩

theorem resetMachine_numbersOk (s : State) : (resetMachine s).NumbersOk :=
  have hF := format_closed s
  freeRegisters_numbersOk (bufValues_bufOf hF _ fun _ => hF.dec _) (bufValues_bufOf hF _ fun _ => hF.dec _)
    (bufValues_bufOf hF _ fun _ => hF.dec _)

theorem raiseError_numbersOk {s : State} (c : Cause) (i : Word) (h : s.NumbersOk) : (raiseError c i s).NumbersOk :=
  numbersOk_congr h (raiseError_capFmt ..) (raiseError_wmem ..) (raiseError_ybuf ..) (raiseError_ebuf ..) (raiseError_acc ..)
    (raiseError_g ..)

theorem configureBody_numbersOk {s : State} (h : s.NumbersOk) : (configureBody s).NumbersOk :=
  have hF := format_closed s
  ⟨bufValues_bufClear h.wmem hF _, bufValues_bufClear h.ybuf hF _, bufValues_bufClear h.ebuf hF _, h.acc, h.g⟩

theorem resetwBody_numbersOk {s : State} (h : s.NumbersOk) : (resetwBody s).NumbersOk :=
  ⟨bufValues_bufClear h.wmem (format_closed s) _, h.ybuf, h.ebuf, h.acc, h.g⟩

theorem datapath_values {s : State} (h : s.NumbersOk) : DatapathValues s.num s.datapath :=
  ⟨h.wmem, h.ybuf, h.ebuf, h.acc, h.g⟩

/-- A state takes over a pass's values. -/
theorem withDatapath_numbersOk {s : State} {d : Datapath NumCode} (h : DatapathValues s.num d) : (s.withDatapath d).NumbersOk :=
  ⟨h.wmem, h.ybuf, h.ebuf, h.acc, h.g⟩

/-- A host write stores the value its pattern decodes to (R74). -/
theorem writeEffect_numbersOk {s : State} (a : Offset) (v : Word) (h : s.NumbersOk) : (writeEffect a v s).NumbersOk := by
  unfold writeEffect
  split
  · split
    · next r _ => cases r <;> exact numbersOk_congr h rfl rfl rfl rfl rfl rfl
    · exact h
  · exact numbersOk_congr h rfl rfl rfl rfl rfl rfl
  · exact numbersOk_congr h rfl rfl rfl rfl rfl rfl
  · exact ⟨bufValues_bufSet h.wmem _ ((format_closed s).dec _), h.ybuf, h.ebuf, h.acc, h.g⟩
  all_goals exact h

/-! ### Commands and steps -/

theorem endPass_numbersOk {s : State} (stage : BitVec 2) (done : State → State) (r : Datapath NumCode × Option Anomaly)
    (hd : DatapathValues s.num r.1)
    (hdone : ∀ s', s'.NumbersOk → (done s').NumbersOk) : (endPass stage done s r).1.NumbersOk := by
  have hw := withDatapath_numbersOk hd
  rcases endPass_cases stage done s r with ⟨h0, h1⟩ | ⟨e, h0, h1⟩
  · rw [h1]; exact hdone _ hw
  · rw [h1]; exact raiseError_numbersOk .numeric _ hw

theorem estimateBody_numbersOk {s : State} (h : s.NumbersOk) : (estimateBody s).1.NumbersOk :=
  endPass_numbersOk _ _ _ (estPass_values (num_closed s) _ (datapath_values h)) fun _ h => numbersOk_congr h rfl rfl rfl rfl rfl rfl

theorem residualBody_numbersOk {s : State} (ref : Bool) (h : s.NumbersOk) : (residualBody ref s).1.NumbersOk :=
  endPass_numbersOk _ _ _ (resPass_values (num_closed s) _ (datapath_values h)) fun _ h => numbersOk_congr h rfl rfl rfl rfl rfl rfl

theorem adaptBody_numbersOk {s : State} (h : s.NumbersOk) : (adaptBody s).1.NumbersOk :=
  endPass_numbersOk _ _ _ (adpPass_values (num_closed s) _ _ (datapath_values h)) fun _ h => numbersOk_congr h rfl rfl rfl rfl rfl rfl

theorem processBody_numbersOk {s : State} (ref : Bool) (h : s.NumbersOk) : (processBody ref s).1.NumbersOk := by
  unfold processBody andThen
  have he := estimateBody_numbersOk h
  rcases h1 : (estimateBody s).2 with _ | _
  · simpa [h1] using he
  · rcases h2 : (residualBody ref (estimateBody s).1).2 with _ | _
    · simpa [h1, h2] using residualBody_numbersOk ref he
    · simpa [h1, h2] using adaptBody_numbersOk (residualBody_numbersOk ref he)

/-- A command, delivered or completed, keeps the NUM values. -/
theorem exec_numbersOk {s t : State} (i : Instr) (h : s.NumbersOk) (ht : exec i s = .next t) : t.NumbersOk := by
  have L : ∀ check body, (body s).NumbersOk → runLong i check body s = .next t → t.NumbersOk := by
    intro check body hb ht
    rcases runLong_cases i check body s with ⟨-, h1⟩ | ⟨-, -, h1⟩ | ⟨-, -, ⟨m, -, h1⟩ | ⟨-, h1⟩⟩ <;> rw [h1] at ht <;> cases ht
    · exact completeCommand_numbersOk hb
    · exact raiseError_numbersOk _ _ h
    · exact raiseError_numbersOk _ _ h
    · exact numbersOk_congr h rfl rfl rfl rfl rfl rfl
  have S : ∀ body, (body s).NumbersOk → runShort i body s = .next t → t.NumbersOk := by
    intro body hb ht
    rcases runShort_cases i body s with ⟨-, h1⟩ | ⟨-, -, h1⟩ | ⟨-, -, h1⟩ <;> rw [h1] at ht <;> cases ht
    · exact h
    · exact hb
    · exact raiseError_numbersOk _ _ h
  cases i
  · exact S (fun s => s) h ht
  · exact L _ _ (configureBody_numbersOk h) ht
  · exact S _ (disposeBody_numbersOk h) ht
  · exact L noCheck _ (resetwBody_numbersOk h) ht
  · exact L noCheck (fun s => (estimateBody s).1) (estimateBody_numbersOk h) ht
  · exact L noCheck (fun s => (residualBody _ s).1) (residualBody_numbersOk _ h) ht
  · exact L noCheck (fun s => (adaptBody s).1) (adaptBody_numbersOk h) ht
  · exact L noCheck (fun s => (processBody _ s).1) (processBody_numbersOk _ h) ht
  · exact S _ (numbersOk_congr h rfl rfl rfl rfl rfl rfl) ht

theorem engineStep_numbersOk {s t : State} (h : s.NumbersOk) (ht : engineStep s = .next t) : t.NumbersOk := by
  unfold engineStep at ht
  split at ht
  · split at ht
    · split at ht
      · exact exec_numbersOk _ h ht
      · cases ht
    · cases ht
  · cases ht; exact h

/-- Every step keeps the NUM values, from every state. -/
theorem step_numbersOk {s t : State} (h : s.NumbersOk) (ht : step s = .next t) : t.NumbersOk := by
  have R : ∀ {s r}, s.NumbersOk → (respond r s).NumbersOk := fun h => numbersOk_congr h rfl rfl rfl rfl rfl rfl
  unfold step runNext at ht
  split at ht
  · exact engineStep_numbersOk h ht
  · rename_i e rest he
    have h' : ({ s with inputs := rest } : State).NumbersOk := numbersOk_congr h rfl rfl rfl rfl rfl rfl
    generalize ({ s with inputs := rest } : State) = s1 at *
    cases e with
    | read a =>
      simp only [runEvent, hostRead] at ht
      split at ht <;> (cases ht; exact R h')
    | write a v =>
      simp only [runEvent, hostWrite] at ht
      split at ht
      · cases ht; exact R h'
      · split at ht
        · unfold dispatch at ht
          split at ht
          · cases ht; exact raiseError_numbersOk _ _ (R h')
          · exact exec_numbersOk _ (R h') ht
        · cases ht; exact R (writeEffect_numbersOk a v h')
    | engine => exact engineStep_numbersOk h' ht
    | reset => cases ht; exact resetMachine_numbersOk s1

end Sys2Proof.Machine
end

