-- ==== Sys2Proof/Tests/Slice0.lean ====
section
/-! SUPPORT. The model's own tests: the vectors of spec/95_test_vectors.md on small states, one ill-formed term for each check of
WellFormed, and for every obligation with hypotheses a state and operands that meet them all together (`witness_…`). -/

namespace Sys2Proof.Tests

open Sys2Proof.Machine

-- The tests are elaborated one at a time: each thread of a kernel evaluation reserves its own stack.
set_option Elab.async false

/-! ### States and helpers -/

/-- The next state of an outcome; `s` itself where there is none (each test that uses it checks a value `s` does not have). -/
def nextOr (s : State) : Host.Outcome State Fault Refusal → State
  | .next t => t
  | .fault _ => s
  | .refused _ => s

/-- READY, N = 4, L = 2, μ = 2^−4, buffers all zero. -/
def ready4 : State :=
  { State.reset with cfgN := 4#32, cfgL := 2#32, cfgMuHi := 0x3FB00000#32, st := .ready }

/-- The state of the worked examples R152, R160, R174 and R181: `WMEM` = [0.5, 0.25], `XBUF` = [4, 8, −4, 0], `SEQ` = 7. -/
def frame4 : State :=
  { ready4 with
    xbuf := [(0, 4#16), (1, 8#16), (2, -4#16)]
    wmem := [(0, 0x3FE0000000000000#64), (1, 0x3FD0000000000000#64)]
    seq := 7#64 }

/-- `frame4` with the command word `c` in flight. -/
def busy4 (c : Word) : State := { frame4 with busy := true, pend := c }

/-- `s` with one event to come. -/
def withEvent (e : Event) (s : State) : State := { s with inputs := [e] }

/-- The answer to one event in `s`. -/
def answer (e : Event) (s : State) : Option Response := (nextOr s (step (withEvent e s))).resps.head?

/-- The state after one event in `s`. -/
def after (e : Event) (s : State) : State := nextOr s (step (withEvent e s))

/-- The state after the delivery and the completion of a command in `s`. -/
def afterCommand (c : Word) (s : State) : State := after .engine (after (.write cmdOffset c) s)

/-! ### Encoding (95_test_vectors.md V-D1 to V-D18) -/

theorem test_decode_legal_words :
    [0x0#32, 0x1#32, 0x2#32, 0x3#32, 0x4#32, 0x5#32, 0x105#32, 0x6#32, 0x7#32, 0x107#32, 0x8#32].map decode =
      [.ok .nop, .ok .configure, .ok .dispose, .ok .resetw, .ok .estimate, .ok (.residual false),
       .ok (.residual true), .ok .adapt, .ok (.process false), .ok (.process true), .ok .clrerr] := by decide

theorem test_decode_illegal_words :
    [0x9#32, 0xFF#32, 0x104#32, 0x100#32, 0x207#32, 0x80000007#32, 0xFFFFFFFF#32].map decode =
      [.error .reservedOpc, .error .reservedOpc, .error .refNotAllowed, .error .refNotAllowed, .error .reservedBits,
       .error .reservedBits, .error .reservedBits] := by decide

theorem test_encode_words :
    [.nop, .configure, .dispose, .resetw, .estimate, .residual false, .residual true, .adapt, .process false,
      .process true, .clrerr].map encode =
      [0x0#32, 0x1#32, 0x2#32, 0x3#32, 0x4#32, 0x5#32, 0x105#32, 0x6#32, 0x7#32, 0x107#32, 0x8#32] := by decide

theorem test_table_word : decodeTableWord 32 0x107 = some (.process true) ∧ decodeTableWord 32 0x10000 = none := by
  decide

theorem test_illformed_rsv : CmdFields.illegal? { opc := 7#8, ref := false, rsv := 1#23 } = some .reservedBits := by
  decide

theorem test_illformed_opc : CmdFields.illegal? { opc := 9#8, ref := false, rsv := 0#23 } = some .reservedOpc := by
  decide

theorem test_illformed_ref : CmdFields.illegal? { opc := 4#8, ref := true, rsv := 0#23 } = some .refNotAllowed := by
  decide

/-! ### Numerics (V-Q1 to V-N9), with 0x7FF8000000000000 in the place of the free NaN pattern -/

theorem test_q16 :
    [0x4004000000000000#64, 0x400C000000000000#64, 0xC004000000000000#64, 0x3FE0000000000000#64,
      0xBFE0000000000000#64, 0x3FF8000000000000#64, 0x40DFFFE000000000#64, 0x40EFFFC000000000#64,
      0xC0E0001000000000#64, 0xC0E0003000000000#64, 0x8000000000000000#64].map (fun a => (b64Q16 a).toInt) =
      [2, 4, -2, 0, 0, 2, 32767, 32767, -32768, -32768, 0] := by decide +kernel

theorem test_cvt :
    [b64Cvt (-32768#16), b64Cvt 32767#16, b64Cvt 0#16] =
      [0xC0E0000000000000#64, 0x40DFFFC000000000#64, 0x0000000000000000#64] := by decide +kernel

theorem test_mul :
    [b64Mul 0x7FF8000000000000#64 0x3FB999999999999A#64 (b64Cvt 3#16),
      b64Mul 0x7FF8000000000000#64 0x3FB999999999999A#64 (b64Cvt 7#16),
      b64Mul 0x7FF8000000000000#64 0x7FEFFFFFFFFFFFFF#64 (b64Cvt 2#16),
      b64Mul 0x7FF8000000000000#64 0x7FF0000000000000#64 (b64Cvt 0#16),
      b64Mul 0x7FF8000000000000#64 0#64 (b64Cvt (-5#16))] =
      [0x3FD3333333333334#64, 0x3FE6666666666667#64, 0x7FF0000000000000#64, 0x7FF8000000000000#64,
       0x8000000000000000#64] := by decide +kernel

theorem test_add :
    [b64Add 0x7FF8000000000000#64 0x3FD3333333333334#64 0x3FE6666666666667#64,
      b64Add 0x7FF8000000000000#64 0#64 0x8000000000000000#64,
      b64Add 0x7FF8000000000000#64 0x8000000000000000#64 0x8000000000000000#64] =
      [0x3FF0000000000000#64, 0#64, 0x8000000000000000#64] := by decide +kernel

theorem test_finite :
    [0x7FEFFFFFFFFFFFFF#64, 0x7FF0000000000000#64, 0x7FF8000000000000#64, 1#64].map b64Finite =
      [true, false, false, true] := by decide +kernel

theorem test_neg0 :
    [0x8000000000000000#64, 0xBFF0000000000000#64, 0#64, 0x3F60000000000000#64].map b64Neg0 =
      [false, true, false, false] := by decide +kernel

/-! ### The port (V-M1 to V-M19) -/

theorem test_port_identity :
    [0x00000#20, 0x00004#20, 0x00008#20, 0x0000C#20, 0x00020#20].map (fun a => answer (.read a) ready4) =
      [some (.value 0x41464531#32), some (.value 1024#32), some (.value 1024#32), some (.value 1#32),
       some (.value 0#32)] := by decide +kernel

/-- The codes of R186. -/
theorem test_port_cause :
    [Cause.none, .config, .numeric, .sequence, .illegal].map (fun c => answer (.read 0x00028#20) { ready4 with cause := c }) =
      [some (.value 0#32), some (.value 1#32), some (.value 2#32), some (.value 3#32), some (.value 4#32)] := by
  decide +kernel

/-- An implementation with another NUM reads its code in `CAP_FMT` (R25). -/
theorem test_port_format : answer (.read 0x0000C#20) { ready4 with capFmt := 0x82#8 } = some (.value 0x82#32) := by
  decide +kernel

theorem test_port_read_refusals :
    [0x00002#20, 0x80000#20, 0x00040#20, 0x11000#20, 0x32000#20].map (fun a => answer (.read a) ready4) =
      [some .err, some .err, some .err, some .err, some .err] := by decide +kernel

theorem test_port_last_elements :
    [0x10FFC#20, 0x31FFC#20].map (fun a => answer (.read a) ready4) =
      [some (.value 0#32), some (.value 0#32)] := by decide +kernel

theorem test_port_write_refusals :
    [(0xF0000#20, 0#32), (0x00000#20, 5#32), (0x00024#20, 0#32), (0x00010#20, 8#32), (0x10000#20, 0x00008000#32),
      (0x60000#20, 1#32), (0x40000#20, 1#32), (0x70000#20, 1#32)].map (fun p => answer (.write p.1 p.2) ready4) =
      [some .err, some .err, some .err, some .err, some .err, some .err, some .err, some .err] := by decide +kernel

theorem test_port_sample :
    answer (.read 0x10000#20) (after (.write 0x10000#20 0xFFFF8000#32) ready4) = some (.value 0xFFFF8000#32) := by
  decide +kernel

theorem test_port_coefficient :
    (after (.write 0x30004#20 0x3FE00000#32) ready4).wAt 0 = 0x3FE0000000000000#64 := by decide +kernel

theorem test_port_freshness :
    [0x20000#20, 0x10000#20, 0x30000#20].map
        (fun a => statusWord (after (.write a 0#32) { ready4 with yFresh := true, eFresh := true })) =
      [0x41#32, 0x01#32, 0x01#32] := by decide +kernel

theorem test_port_unconfigured :
    [answer (.read 0x10000#20) State.reset, answer (.write 0x30000#20 0#32) State.reset] = [some .err, some .err] := by
  decide +kernel

theorem test_port_busy :
    [answer (.read 0x60000#20) (busy4 7#32), answer (.write 0x00020#20 7#32) (busy4 7#32),
      answer (.read 0x00024#20) (busy4 7#32), answer (.write 0x00038#20 3#32) (busy4 7#32)] =
      [some .err, some .err, some (.value 0x11#32), some .done] := by decide +kernel

theorem test_port_write_one_to_clear :
    (after (.write 0x0003C#20 1#32) { ready4 with irqPend := 3#2 }).irqPend = 2#2 := by decide +kernel

/-! ### Life-cycle commands (V-L1 to V-L13) -/

/-- Reset with N, L and μ written. -/
def configured (n l : Word) (mu : Double) : State :=
  { State.reset with cfgN := n, cfgL := l, cfgMuLo := halfOf false mu, cfgMuHi := halfOf true mu }

/-- `EINFO` after a CONFIGURE of (N, L, μ). -/
def configInfo (n l : Word) (mu : Double) : Word := (after (.write cmdOffset 1#32) (configured n l mu)).einfo

theorem test_nop : after (.write cmdOffset 0#32) ready4 = { ready4 with resps := [.done] } := by decide +kernel

theorem test_configure :
    let t := afterCommand 1#32 (configured 4#32 2#32 0x3F60000000000000#64)
    statusWord t = 1#32 ∧ t.seq = 0#64 ∧ t.irqPend = 1#2 := by decide +kernel

theorem test_configure_masks :
    [configInfo 0#32 0#32 0#64, configInfo 1025#32 2#32 0x7FF0000000000000#64, configInfo 4#32 2#32 0xBFF0000000000000#64,
      configInfo 4#32 2#32 0x7FF8000000000000#64, configInfo 4#32 2#32 0x8000000000000000#64,
      configInfo 1024#32 1024#32 0#64] = [0x5#32, 0x12#32, 0x20#32, 0x10#32, 0#32, 0#32] := by decide +kernel

theorem test_configure_error :
    let t := after (.write cmdOffset 1#32) (configured 0#32 0#32 0#64)
    statusWord t = 0x20#32 ∧ t.cause = .config ∧ t.irqPend = 2#2 := by decide +kernel

theorem test_configure_refused :
    let t := after (.write cmdOffset 1#32) ready4
    t.cause = .sequence ∧ t.einfo = 1#32 ∧ t.st = .ready := by decide +kernel

theorem test_dispose :
    statusWord (after (.write cmdOffset 2#32) ready4) = 0#32
      ∧ answer (.read 0x10000#20) (after (.write cmdOffset 2#32) ready4) = some .err := by decide +kernel

theorem test_dispose_refused :
    let t := after (.write cmdOffset 2#32) State.reset
    t.cause = .sequence ∧ t.einfo = 2#32 := by decide +kernel

theorem test_resetw :
    let t := afterCommand 3#32 frame4
    t.wAt 0 = 0#64 ∧ t.wAt 1 = 0#64 ∧ t.seq = 7#64 ∧ statusWord t = 1#32 := by decide +kernel

theorem test_resetw_leaves_fault :
    statusWord (afterCommand 3#32 { frame4 with st := .fault, err := true, cause := .numeric }) = 0x21#32 := by
  decide +kernel

theorem test_clrerr :
    let t := after (.write cmdOffset 8#32) { frame4 with st := .fault, err := true, cause := .numeric, einfo := 1#32 }
    statusWord t = 2#32 ∧ t.cause = .none ∧ t.einfo = 0#32 := by decide +kernel

theorem test_illegal :
    let t := after (.write cmdOffset 0x104#32) ready4
    t.cause = .illegal ∧ t.einfo = 0x104#32 := by decide +kernel

/-! ### The three steps and PROCESS -/

/-- R152, V-E1. -/
theorem test_estimate :
    let t := afterCommand 4#32 frame4
    [t.yAt 0, t.yAt 1, t.yAt 2, t.yAt 3] =
        [0x4000000000000000#64, 0x4014000000000000#64, 0#64, 0xBFF0000000000000#64]
      ∧ [t.tAt 0, t.tAt 1] = [0#16, -4#16] ∧ statusWord t = 0x41#32 := by decide +kernel

/-- V-E8. -/
theorem test_estimate_overflow :
    let t := afterCommand 4#32 { frame4 with xbuf := [(0, 2#16)], wmem := [(0, 0x7FEFFFFFFFFFFFFF#64)] }
    t.yAt 0 = 0x7FF0000000000000#64 ∧ t.einfo = 1#32 ∧ statusWord t = 0x22#32 ∧ t.irqPend = 3#2 := by decide +kernel

/-- The state of R160: `YBUF` = [2, 5, 0, −1], fresh. -/
def estimated4 : State :=
  { frame4 with
    ybuf := [(0, 0x4000000000000000#64), (1, 0x4014000000000000#64), (3, 0xBFF0000000000000#64)], yFresh := true }

/-- R160, V-R1. -/
theorem test_residual :
    let t := afterCommand 5#32 estimated4
    [t.eAt 0, t.eAt 1, t.eAt 2, t.eAt 3] =
        [0x4000000000000000#64, 0x4008000000000000#64, 0xC010000000000000#64, 0x3FF0000000000000#64]
      ∧ [t.oAt 0, t.oAt 1, t.oAt 2, t.oAt 3] = [2#16, 3#16, -4#16, 1#16] ∧ statusWord t = 0xC1#32 := by decide +kernel

/-- R160, V-R2. -/
theorem test_residual_ref :
    let t := afterCommand 0x105#32 estimated4
    [t.oAt 0, t.oAt 1, t.oAt 2, t.oAt 3] = [-2#16, -5#16, 0#16, 1#16] ∧ t.eAt 2 = 0#64
      ∧ statusWord t = 0x1C1#32 := by decide +kernel

/-- The state of R174: `EBUF` = [2, 3, −4, 1], fresh. -/
def residual4 : State :=
  { estimated4 with
    ebuf := [(0, 0x4000000000000000#64), (1, 0x4008000000000000#64), (2, 0xC010000000000000#64),
      (3, 0x3FF0000000000000#64)]
    eFresh := true }

/-- R174, V-A1. -/
theorem test_adapt :
    let t := afterCommand 6#32 residual4
    [t.wAt 0, t.wAt 1] = [0x400C000000000000#64, 0xBFF4000000000000#64] ∧ [t.tAt 0, t.tAt 1] = [0#16, -4#16]
      ∧ t.seq = 8#64 ∧ statusWord t = 1#32 := by decide +kernel

/-- The state of V-A5: N = L = 2, μ = 2^1012, `XBUF` = [16384, 1], `EBUF` = [+0, 1]. -/
def diverging2 : State :=
  { State.reset with
    cfgN := 2#32, cfgL := 2#32, cfgMuHi := 0x7F300000#32, st := .ready, yFresh := true, eFresh := true
    xbuf := [(0, 16384#16), (1, 1#16)], ebuf := [(1, 0x3FF0000000000000#64)] }

/-- V-A5. -/
theorem test_adapt_overflow :
    let t := afterCommand 6#32 diverging2
    [t.wAt 0, t.wAt 1] = [0x7F30000000000000#64, 0x7FF0000000000000#64] ∧ t.einfo = 0x00010007#32 ∧ t.seq = 0#64
      ∧ statusWord t = 0x22#32 := by decide +kernel

/-- R181, V-P1. -/
theorem test_process :
    let t := afterCommand 7#32 frame4
    [t.oAt 0, t.oAt 1, t.oAt 2, t.oAt 3] = [2#16, 3#16, -4#16, 1#16]
      ∧ [t.wAt 0, t.wAt 1] = [0x400C000000000000#64, 0xBFF4000000000000#64] ∧ t.seq = 8#64 ∧ statusWord t = 1#32
      ∧ t.irqPend = 1#2 := by decide +kernel

/-- V-P2: `WMEM` = [−2.5, −1.25]. -/
theorem test_process_ref :
    let t := afterCommand 0x107#32 frame4
    [t.wAt 0, t.wAt 1] = [0xC004000000000000#64, 0xBFF4000000000000#64] ∧ statusWord t = 0x101#32 := by decide +kernel

/-! ### Placing a command -/

theorem test_withFetchWord :
    (nextOr State.reset (step (State.reset.withFetchWord 32 0x4))).einfo = 4#32
      ∧ (nextOr State.reset (step ((busy4 7#32).withFetchWord 32 0x7))).busy = true := by decide +kernel

/-! ### Witnesses: each obligation's hypotheses hold together somewhere -/

theorem witness_DecodeOfEncodedCommand : (Instr.process true).wellFormed = true := by decide

theorem witness_IllegalWordIsRecorded :
    (withEvent (.write 0x00020#20 0x200#32) ready4).inputs = .write 0x00020#20 0x200#32 :: []
      ∧ (withEvent (.write 0x00020#20 0x200#32) ready4).busy = false ∧ (0x200#32).toNat / 512 ≠ 0 ∧ 8 < (9#32).toNat % 256
      ∧ ((0x100#32).toNat / 256 % 2 = 1 ∧ (0x100#32).toNat % 256 ≠ 5 ∧ (0x100#32).toNat % 256 ≠ 7) := by decide

theorem witness_StepRunsDeliveredCommand :
    (withEvent (.write 0x00020#20 7#32) frame4).inputs = .write 0x00020#20 7#32 :: []
      ∧ (withEvent (.write 0x00020#20 7#32) frame4).busy = false ∧ decode 7#32 = .ok (.process false) := by decide

theorem witness_StepCompletesPendingCommand :
    (busy4 7#32).busy = true ∧ decode (busy4 7#32).pend = .ok (.process false) ∧ (Instr.process false).isLong = true
      ∧ (busy4 7#32).inputs = [] ∧ (withEvent .engine (busy4 7#32)).inputs = .engine :: [] := by decide

theorem witness_IdleMachineWaits :
    ready4.busy = false ∧ ready4.inputs = [] ∧ (withEvent .engine ready4).inputs = .engine :: [] := by decide

theorem witness_PortRefusesExactly :
    (withEvent (.read 0x10FFC#20) ready4).inputs = .read 0x10FFC#20 :: []
      ∧ (withEvent (.write 0x10FFC#20 0xFFFF8000#32) ready4).inputs = .write 0x10FFC#20 0xFFFF8000#32 :: [] := by decide

theorem witness_RefusedWriteChangesNothing :
    let s := withEvent (.write 0x10000#20 0x8000#32) ready4
    s.inputs = .write 0x10000#20 0x8000#32 :: [] ∧ (nextOr s (step s)).resps = .err :: s.resps := by decide +kernel

theorem witness_BusyCommandIsDropped :
    (withEvent (.write 0x00020#20 7#32) (busy4 7#32)).inputs = .write 0x00020#20 7#32 :: []
      ∧ (withEvent (.write 0x00020#20 7#32) (busy4 7#32)).busy = true := by decide

theorem witness_RegisterReads :
    (0x0003C#20, 0#32) ∈ csrTable ready4 ∧ (0x00000#20, 0x41464531#32) ∈ csrTable ready4
      ∧ (withEvent (.read 0x0003C#20) ready4).inputs = .read 0x0003C#20 :: [] := by decide +kernel

/-- The last element of each region, `i` = NMAX − 1 = LMAX − 1 = 1023. -/
theorem witness_BufferReads :
    ready4.st ≠ .unconfigured ∧ ready4.busy = false ∧ 1023 < 8192 ∧ 1023 < ready4.nmax ∧ 1023 < ready4.lmax
      ∧ [0x10000 + 4 * 1023, 0x20000 + 4 * 1023, 0x60000 + 4 * 1023, 0x70000 + 4 * 1023,
          0x30000 + 8 * 1023 + 4 * 1, 0x40000 + 8 * 1023 + 4 * 1, 0x50000 + 8 * 1023 + 4 * 1].all (fun a =>
            decide ((withEvent (.read (BitVec.ofNat 20 a)) ready4).inputs = .read (BitVec.ofNat 20 a) :: [])) = true := by
  decide +kernel

theorem witness_RegisterWrites :
    State.reset.st = .unconfigured ∧ State.reset.busy = false
      ∧ [0x00010#20, 0x00014#20, 0x00018#20, 0x0001C#20, 0x00038#20, 0x0003C#20].all (fun a =>
          decide ((withEvent (.write a 3#32) State.reset).inputs = .write a 3#32 :: [])) = true := by decide +kernel

theorem witness_SampleWrites :
    ready4.st ≠ .unconfigured ∧ ready4.busy = false ∧ 1023 < 16384 ∧ 1023 < ready4.nmax
      ∧ (withEvent (.write (BitVec.ofNat 20 (0x10000 + 4 * 1023)) ((0x8000#16).signExtend 32)) ready4).inputs =
          .write (BitVec.ofNat 20 (0x10000 + 4 * 1023)) ((0x8000#16).signExtend 32) :: []
      ∧ (withEvent (.write (BitVec.ofNat 20 (0x20000 + 4 * 1023)) ((0x8000#16).signExtend 32)) ready4).inputs =
          .write (BitVec.ofNat 20 (0x20000 + 4 * 1023)) ((0x8000#16).signExtend 32) :: [] := by decide +kernel

theorem witness_CoefficientHalfWrites :
    ready4.st ≠ .unconfigured ∧ ready4.busy = false ∧ 1023 < 8192 ∧ 1023 < ready4.lmax ∧ 1 < 2
      ∧ (withEvent (.write (BitVec.ofNat 20 (0x30000 + 8 * 1023 + 4 * 1)) 5#32) ready4).inputs =
          .write (BitVec.ofNat 20 (0x30000 + 8 * 1023 + 4 * 1)) 5#32 :: [] := by decide +kernel

/-- A half written back as it reads: the upper half of +0. -/
theorem witness_CoefficientHalfWrites_back :
    isValue ready4.format (ready4.wAt 1023) ∧ 0#32 = (ready4.format.enc (ready4.wAt 1023)).extractLsb' (32 * 1) 32 :=
  ⟨rfl, by decide +kernel⟩

theorem witness_RefusedCommandIsRecorded :
    ready4.busy = false ∧ commandAllowed .adapt ready4 = false ∧ commandAllowed .configure ready4 = false := by decide

theorem witness_LongCommandIsAccepted :
    ready4.busy = false ∧ commandAllowed .estimate ready4 = true ∧ Instr.isLong .estimate = true
      ∧ (Instr.estimate = .configure → ready4.Configured)
      ∧ commandAllowed .configure (configured 1024#32 1024#32 0#64) = true
      ∧ (configured 1024#32 1024#32 0#64).Configured := by decide +kernel

theorem witness_InvalidConfigurationIsRecorded :
    State.reset.busy = false ∧ State.reset.st = .unconfigured ∧ ¬ State.reset.Configured := by decide +kernel

theorem witness_ConfigureBuildsEngine :
    let s := { configured 4#32 2#32 0#64 with busy := true, pend := 1#32 }
    s.busy = true ∧ Memory.wf s = true := by decide +kernel

theorem witness_DisposeEndsEngine : ready4.busy = false ∧ ready4.st ≠ .unconfigured := by decide

theorem witness_ResetwZeroesCoefficients : (busy4 3#32).busy = true ∧ Memory.wf (busy4 3#32) = true := by
  decide +kernel

theorem witness_ClrerrClearsRecord : { ready4 with err := true, cause := .sequence }.busy = false := by decide

theorem witness_EstimateComputesConvolution :
    let s := busy4 4#32
    s.busy = true ∧ s.Configured ∧ ∀ n < s.lenN, s.num.finite (convAt s.num s.wAt s.xAt s.lenL n) = true := by
  decide +kernel

/-- `busy4` with a first coefficient whose product with x[1] = 8 overflows, so that the anomaly is at n = 1: x[0] = 1. -/
def overflow4 (c : Word) : State :=
  { busy4 c with xbuf := [(0, 1#16), (1, 8#16)], wmem := [(0, 0x7FEFFFFFFFFFFFFF#64)] }

theorem witness_EstimateAnomalyHalts :
    let s := overflow4 4#32
    s.busy = true ∧ s.Configured ∧ s.DepthsOk ∧ 1 < s.lenN
      ∧ (∀ m < 1, s.num.finite (convAt s.num s.wAt s.xAt s.lenL m) = true)
      ∧ s.num.finite (convAt s.num s.wAt s.xAt s.lenL 1) = false := by decide +kernel

theorem witness_ResidualComputesError :
    let s := { estimated4 with busy := true, pend := 0x105#32 }
    s.busy = true ∧ ∀ n < s.lenN, s.num.finite (residualAt s.num (if true then s.dAt else s.xAt) s.yAt n) = true := by decide +kernel

/-- An infinite element of the estimate: a state of no run (R158 e), as the form of R159 needs. -/
theorem witness_ResidualAnomalyHalts :
    let s := { estimated4 with busy := true, pend := 5#32, ybuf := [(1, 0x7FF0000000000000#64)] }
    s.busy = true ∧ s.Configured ∧ s.DepthsOk ∧ 1 < s.lenN
      ∧ (∀ m < 1, s.num.finite (residualAt s.num (if false then s.dAt else s.xAt) s.yAt m) = true)
      ∧ s.num.finite (residualAt s.num (if false then s.dAt else s.xAt) s.yAt 1) = false := by decide +kernel

theorem witness_AdaptUpdatesCoefficients :
    let s := { residual4 with busy := true, pend := 6#32 }
    s.busy = true ∧ s.Configured ∧
      ∀ n < s.lenN, ∀ k < s.lenL, s.num.finite (coeffAt s.num (s.num.dec (s.cfgMuHi ++ s.cfgMuLo)) s.eAt s.xAt k (n + 1) (s.wAt k)) = true := by
  decide +kernel

theorem witness_AdaptAnomalyHalts :
    let s := { diverging2 with busy := true, pend := 6#32 }
    s.busy = true ∧ s.Configured ∧ s.DepthsOk ∧ 1 < s.lenN ∧ 1 < s.lenL
      ∧ (∀ m < 1, ∀ j < s.lenL, s.num.finite (coeffAt s.num (s.num.dec (s.cfgMuHi ++ s.cfgMuLo)) s.eAt s.xAt j (m + 1) (s.wAt j)) = true)
      ∧ (∀ j < 1, s.num.finite (coeffAt s.num (s.num.dec (s.cfgMuHi ++ s.cfgMuLo)) s.eAt s.xAt j (1 + 1) (s.wAt j)) = true)
      ∧ s.num.finite (coeffAt s.num (s.num.dec (s.cfgMuHi ++ s.cfgMuLo)) s.eAt s.xAt 1 (1 + 1) (s.wAt 1)) = false := by decide +kernel

theorem witness_ProcessRunsWholeCycle :
    let s := busy4 7#32
    let F := numOf s.capFmt 0x7FF8000000000000#64
    let y := convAt F s.wAt s.xAt s.lenL
    let e := residualAt F (if false then s.dAt else s.xAt) y
    s.busy = true ∧ s.Configured ∧ b64IsNaN 0x7FF8000000000000#64 = true
      ∧ (∀ n < s.lenN, F.finite (y n) = true) ∧ (∀ n < s.lenN, F.finite (e n) = true)
      ∧ ∀ n < s.lenN, ∀ k < s.lenL, F.finite (coeffAt F (F.dec (s.cfgMuHi ++ s.cfgMuLo)) e s.xAt k (n + 1) (s.wAt k)) = true := by decide +kernel

theorem witness_ProcessEndsAtFirstAnomaly :
    (overflow4 7#32).busy = true ∧ (estimateBody (overflow4 7#32)).2 = false
      ∧ (busy4 7#32).busy = true ∧ (estimateBody (busy4 7#32)).2 = true
      ∧ (residualBody false (estimateBody (busy4 7#32)).1).2 = true := by decide +kernel

theorem witness_ZeroCoefficientsGiveZero :
    let s := { ready4 with busy := true, pend := 4#32, xbuf := [(0, 8#16)] }
    s.capFmt = 1#8 ∧ s.busy = true ∧ s.Configured ∧ ∀ k < s.lenL, b64IsZero (s.wAt k) = true := by decide +kernel

theorem witness_ZeroRateKeepsCoefficients :
    let s := { residual4 with busy := true, pend := 6#32, cfgMuHi := 0x80000000#32 }
    s.capFmt = 1#8 ∧ s.busy = true ∧ s.Configured ∧ b64IsZero (s.cfgMuHi ++ s.cfgMuLo) = true ∧ (∀ n < s.lenN, b64Finite (s.eAt n) = true)
      ∧ ∀ k < s.lenL, b64Finite (s.wAt k) = true := by decide +kernel

theorem witness_FiniteEstimateNeverFaultsResidual :
    let s := { estimated4 with busy := true, pend := 5#32, ybuf := [(0, 0x7FEFFFFFFFFFFFFF#64)] }
    s.capFmt = 1#8 ∧ s.busy = true ∧ ∀ n < s.lenN, b64Finite (s.yAt n) = true := by decide +kernel

theorem witness_FirstErrorIsKept :
    ready4.err = false ∧ { ready4 with err := true, cause := .sequence }.err = true := by decide

theorem witness_CompletionEndsCommand : Instr.isLong .adapt = true ∧ (busy4 6#32).busy = true := by decide

theorem witness_EveryNumMeetsItsLaws :
    ready4.capFmt = 1#8 ∧ (binary64 0#64).finite 1#64 = true ∧ b64IsZero 1#64 = false := by decide +kernel

/-- The largest finite value plus half of its last place, 2^970, is an infinity, and plus the
number just below it is finite (R113). -/
theorem witness_AddRoundsToNearestEven_overflow :
    b64Finite (b64Add 0#64 0x7FEFFFFFFFFFFFFF#64 0x7C90000000000000#64) = false
      ∧ b64Finite (b64Add 0#64 0x7FEFFFFFFFFFFFFF#64 0x7C8FFFFFFFFFFFFF#64) = true
      ∧ b64Int 1#64 + b64Int 0x8000000000000001#64 = 0 ∧ b64IsZero 1#64 = false := by decide +kernel

/-- The largest finite value times 2 is an infinity (R114). -/
theorem witness_MulRoundsToNearestEven_overflow :
    b64Finite 0x7FEFFFFFFFFFFFFF#64 = true
      ∧ b64Finite (b64Mul 0#64 0x7FEFFFFFFFFFFFFF#64 0xC000000000000000#64) = false := by decide +kernel

theorem witness_AddRoundsToNearestEven :
    b64Finite 0x3FD3333333333334#64 = true ∧ b64Finite 0x3FE6666666666667#64 = true
      ∧ b64Finite (b64Add 0#64 0x3FD3333333333334#64 0x3FE6666666666667#64) = true
      ∧ b64Finite 0x3FF0000000000001#64 = true := by decide +kernel

/-- 1 + 2^−53: half way between 1 and 1 + 2^−52, and the even one results. -/
theorem witness_AddRoundsToNearestEven_tie :
    let r := b64Add 0#64 0x3FF0000000000000#64 0x3CA0000000000000#64
    let v := b64Int 0x3FF0000000000000#64 + b64Int 0x3CA0000000000000#64
    (b64Int r - v).natAbs = (b64Int 0x3FF0000000000001#64 - v).natAbs ∧ b64Int 0x3FF0000000000001#64 ≠ b64Int r := by
  decide +kernel

theorem witness_MulRoundsToNearestEven :
    b64Finite 0x3FB999999999999A#64 = true ∧ b64Finite 0x4008000000000000#64 = true
      ∧ b64Finite (b64Mul 0#64 0x3FB999999999999A#64 0x4008000000000000#64) = true
      ∧ b64Finite 0x3FD3333333333333#64 = true := by decide +kernel

/-- 2^−1074 · 0.5: half way between 0 and 2^−1074. -/
theorem witness_MulRoundsToNearestEven_tie :
    let r := b64Mul 0#64 1#64 0x3FE0000000000000#64
    let v := b64Int 1#64 * b64Int 0x3FE0000000000000#64
    (b64Int r * 2 ^ 1074 - v).natAbs = (b64Int 1#64 * 2 ^ 1074 - v).natAbs ∧ b64Int 1#64 ≠ b64Int r := by
  decide +kernel

theorem witness_SpecialOperands :
    b64IsNaN 0x7FF8000000000000#64 = true ∧ b64IsInf 0x7FF0000000000000#64 = true
      ∧ b64IsInf 0xFFF0000000000000#64 = true ∧ b64Sign 0x7FF0000000000000#64 ≠ b64Sign 0xFFF0000000000000#64
      ∧ b64Finite 0x3FF0000000000000#64 = true ∧ b64IsZero 0x8000000000000000#64 = true
      ∧ b64IsNaN 0x3FF0000000000000#64 = false ∧ b64IsZero 0x3FF0000000000000#64 = false := by decide +kernel

theorem witness_SignedZeros :
    b64IsZero 0x8000000000000000#64 = true ∧ b64IsZero 0#64 = true ∧ b64Finite 1#64 = true ∧ b64IsZero 1#64 = false := by
  decide +kernel

theorem witness_ExactEstimateIsConvolution : 0 < 2 ∧ 3 < 4 := by decide

theorem witness_ExactAdaptIsBlockUpdate : 0 < 2 ∧ 1 < 2 := by decide

theorem witness_CommandsAreDeterministic :
    let s := busy4 7#32
    let s' := { s with freeCount := 5, acc := 1#64 }
    Instr.isLong (.process false) = true ∧ s.busy = true ∧
      s' = { s with
        acc := s'.acc, g := s'.g, pend := s'.pend, seqr := s'.seqr, freeCount := s'.freeCount, inputs := s'.inputs
        resps := s'.resps } := by decide +kernel

theorem witness_ResetEventAbandonsEverything :
    (withEvent .reset (busy4 7#32)).inputs = .reset :: [] := by decide

/-! #### The invariants, at an idle and at a busy state -/

theorem frame4_inv : frame4.Inv where
  depths := by decide
  configured := fun _ => by decide +kernel
  freshOrder := by decide
  freshReady := by decide
  record := by decide
  recordInfo := by decide
  taps := fun _ _ _ => rfl
  latch := fun h => absurd h (by decide)
  sequencer := rfl
  memory := by decide +kernel
  numbers := ⟨fun _ => rfl, fun _ => rfl, fun _ => rfl, rfl, rfl⟩

theorem busy4_inv : (busy4 7#32).Inv where
  depths := by decide
  configured := fun _ => by decide +kernel
  freshOrder := by decide
  freshReady := by decide
  record := by decide
  recordInfo := by decide
  taps := fun _ _ _ => rfl
  latch := fun _ => ⟨.process false, by decide, by decide, by decide, by decide⟩
  sequencer := rfl
  memory := by decide +kernel
  numbers := ⟨fun _ => rfl, fun _ => rfl, fun _ => rfl, rfl, rfl⟩

/-- An unconfigured engine with a CONFIGURE in flight. -/
def configuring : State := { configured 4#32 2#32 0#64 with busy := true, pend := 1#32 }

theorem configuring_inv : configuring.Inv where
  depths := by decide
  configured := fun h => absurd rfl h
  freshOrder := by decide
  freshReady := by decide
  record := by decide
  recordInfo := by decide
  taps := fun h => absurd rfl h
  latch := fun _ => ⟨.configure, by decide, by decide, by decide, fun _ => by decide +kernel⟩
  sequencer := rfl
  memory := by decide +kernel
  numbers := ⟨fun _ => rfl, fun _ => rfl, fun _ => rfl, rfl, rfl⟩

theorem frame4_freshMeans : frame4.FreshMeans :=
  ⟨fun h => absurd h (by decide), fun h => absurd h (by decide)⟩

theorem witness_ProcessEqualsThreeCommands : frame4.Inv ∧ frame4.st = .ready ∧ frame4.busy = false :=
  ⟨frame4_inv, rfl, rfl⟩

theorem witness_StepKeepsInvariants : frame4.Inv ∧ ∃ t, step frame4 = .next t := ⟨frame4_inv, frame4, rfl⟩

theorem witness_StepKeepsFreshness : frame4.Inv ∧ frame4.FreshMeans ∧ ∃ t, step frame4 = .next t :=
  ⟨frame4_inv, frame4_freshMeans, frame4, rfl⟩

theorem witness_MachineNeverStops : (busy4 7#32).Inv := busy4_inv

theorem witness_OnlyConfigureLeavesUnconfigured :
    configuring.Inv ∧ ∃ t, step configuring = .next t ∧ configuring.st = .unconfigured ∧ t.st ≠ .unconfigured :=
  ⟨configuring_inv, completeCommand (configureBody configuring), rfl, rfl, by decide⟩

theorem witness_ConfigurationIsFrozen :
    frame4.Inv ∧ (∃ t, step frame4 = .next t) ∧ frame4.st ≠ .unconfigured ∧ ∀ rest, frame4.inputs ≠ .reset :: rest :=
  ⟨frame4_inv, ⟨frame4, rfl⟩, by decide, fun _ h => (by cases h)⟩

theorem withEvent_inv {s : State} (h : s.Inv) (e : Event) : (withEvent e s).Inv :=
  ⟨h.depths, h.configured, h.freshOrder, h.freshReady, h.record, h.recordInfo, h.taps, h.latch, h.sequencer, h.memory,
    ⟨h.numbers.wmem, h.numbers.ybuf, h.numbers.ebuf, h.numbers.acc, h.numbers.g⟩⟩

theorem witness_BusyHoldsRegisters :
    let s := withEvent (.read 0x00024#20) (busy4 7#32)
    s.Inv ∧ ∃ t, step s = .next t ∧ s.busy = true ∧ t.busy = true :=
  ⟨withEvent_inv busy4_inv _, _, rfl, rfl, rfl⟩

theorem witness_SequenceNumberCountsCycles :
    (busy4 7#32).Inv ∧ (∀ rest, (busy4 7#32).inputs ≠ .reset :: rest) ∧
      (nextOr (busy4 7#32) (step (busy4 7#32))).seq ≠ (busy4 7#32).seq :=
  ⟨busy4_inv, fun _ h => (by cases h), by decide +kernel⟩

theorem witness_CoefficientsHaveFewWriters :
    (busy4 7#32).Inv ∧ (nextOr (busy4 7#32) (step (busy4 7#32))).wAt 0 ≠ (busy4 7#32).wAt 0 :=
  ⟨busy4_inv, by decide +kernel⟩

end Sys2Proof.Tests
end

section
/-! PROOFS. O40: the laws of NUM (R110, R120, R121) hold for binary64, read with the real value `b64Val`, and so for the NUM of
every implementation. -/

namespace Sys2Proof.Machine

/-! ### The value of a binary64 number as an integer of units -/

theorem b64Int_natAbs (a : Double) : (b64Int a).natAbs = b64Mag a := by
  unfold b64Int
  split <;> simp

theorem b64Int_eq_zero (a : Double) : b64Int a = 0 ↔ b64IsZero a = true := by
  rw [← Int.natAbs_eq_zero, b64Int_natAbs, b64Mag_eq_zero]

/-- A value below zero has its sign bit set and is no zero. -/
theorem b64Int_neg_iff (a : Double) : b64Int a < 0 ↔ b64Sign a = true ∧ b64IsZero a = false := by
  have hz := b64Mag_eq_zero a
  rw [← Bool.not_eq_true, ← hz]
  unfold b64Int
  cases b64Sign a
  · simp
  · simp; omega

/-- A finite non-zero number is what its own value rounds to. -/
theorem b64Round_b64Int {a : Double} (h : b64Finite a = true) (h0 : b64IsZero a = false) :
    b64Round (decide (b64Int a < 0)) (b64Int a).natAbs 0 = a := by
  have hs : decide (b64Int a < 0) = b64Sign a := by simp [b64Int_neg_iff, h0]
  rw [hs, b64Int_natAbs, b64Round_self h]

/-- `neg0` says of a finite number whether its value is below zero (R115). -/
theorem b64Neg0_iff {a : Double} (h : b64Finite a = true) : b64Neg0 a = true ↔ b64Int a < 0 := by
  rw [b64Int_neg_iff]
  simp [b64Neg0, b64_finite_not_nan h, and_comm]

/-- `ZERO` is neutral for finite non-zero numbers (R119). -/
theorem b64Add_zero {a : Double} (nan : Double) (h : b64Finite a = true) (h0 : b64IsZero a = false) : b64Add nan a 0#64 = a := by
  have hn : b64IsNaN 0#64 = false ∧ b64IsInf 0#64 = false ∧ b64Int 0#64 = 0 := by decide
  have ha : b64Int a ≠ 0 := by simp [b64Int_eq_zero, h0]
  simp [b64Add, b64_finite_not_nan h, b64_finite_not_inf h, hn, ha, b64Round_b64Int h h0]

/-! ### Exact conversion (R112) -/

/-- A whole number of places rounds to itself. -/
theorem roundHalfEven_of_dvd {k sh : Nat} (h : 2 ^ sh ∣ k) : roundHalfEven k sh * 2 ^ sh = k := by
  obtain ⟨m, rfl⟩ := h
  rw [Nat.mul_comm _ m, roundHalfEven_mul]

/-- An integer of at most 16 bits, times a power of two in the range, is finite and kept by the rounding: it has no bit below the
last place. -/
theorem b64Round_smallInt (sign : Bool) {m p : Nat} (hm : m < 2 ^ 16) (hp : 16 + p ≤ 2044) :
    b64Finite (b64Round sign (m * 2 ^ p) 0) = true ∧ b64Mag (b64Round sign (m * 2 ^ p) 0) = m * 2 ^ p := by
  have hlt : m * 2 ^ p < 2 ^ (16 + p) := by
    rw [Nat.pow_add]
    exact Nat.mul_lt_mul_of_pos_right hm (Nat.two_pow_pos p)
  have hbound : ∀ e, 16 + p ≤ e → m * 2 ^ p < (2 ^ 54 - 1) * 2 ^ e := fun e he => by
    have := hlt.trans_le (Nat.pow_le_pow_right two_pos he)
    omega
  have hf : b64Finite (b64Round sign (m * 2 ^ p) 0) = true := (b64Round_finite_iff _ _ _).2 (hbound _ hp)
  have hplace : roundPlace (m * 2 ^ p) 0 ≤ p := by
    have hlog : Nat.log2 (m * 2 ^ p) < 16 + p := by
      by_cases h0 : m * 2 ^ p = 0
      · rw [h0, Nat.log2_zero]; omega
      · exact (Nat.log2_lt h0).2 hlt
    unfold roundPlace
    omega
  exact ⟨hf, by rw [b64Round_mag hf, Nat.zero_add, roundHalfEven_of_dvd ((Nat.pow_dvd_pow 2 hplace).mul_left m)]⟩

/-- `cvt` is exact and finite (R112). -/
theorem b64Cvt_exact (s : Sample) : b64Finite (b64Cvt s) = true ∧ b64Int (b64Cvt s) = s.toInt * 2 ^ 1074 := by
  have hs : s.toInt.natAbs < 2 ^ 16 := by
    have h1 := BitVec.le_toInt s
    have h2 := BitVec.toInt_lt (x := s)
    omega
  obtain ⟨hf, hm⟩ := b64Round_smallInt (p := 1074) (decide (s.toInt < 0)) hs (by decide)
  refine ⟨hf, ?_⟩
  unfold b64Int b64Cvt
  rw [(b64Round_fields _ _ _).1, hm, Nat.cast_mul, Nat.cast_pow, Nat.cast_ofNat]
  by_cases h : s.toInt < 0
  · rw [if_pos (decide_eq_true h), Int.ofNat_natAbs_of_nonpos h.le, neg_mul, neg_neg]
  · rw [if_neg (by simpa using h), Int.natAbs_of_nonneg (Int.not_lt.1 h)]

/-! ### Quantisation (R120) -/

/-- The integer nearest to a finite number, the even one of two: what `q16` saturates. -/
def b64Nearest (a : Double) : Int :=
  if b64Sign a then -(roundHalfEven (b64Mag a) 1074 : Int) else (roundHalfEven (b64Mag a) 1074 : Int)

theorem b64Q16_eq (a : Double) : b64Q16 a = saturate16 (b64Nearest a) := rfl

/-- Rounding to an integer errs by half a place at most, and only towards an even integer by as much. -/
theorem roundHalfEven_error (k sh : Nat) :
    (2 * ((roundHalfEven k sh : Int) * 2 ^ sh - k)).natAbs ≤ 2 ^ sh
      ∧ ((2 * ((roundHalfEven k sh : Int) * 2 ^ sh - k)).natAbs = 2 ^ sh → roundHalfEven k sh % 2 = 0) := by
  obtain ⟨hlo, hhi⟩ := roundHalfEven_near k sh
  have heven := roundHalfEven_even (k := k) (sh := sh)
  simp only [Nat.add_mul, Nat.mul_assoc, Nat.one_mul] at hlo hhi heven
  have hcast : (roundHalfEven k sh : Int) * 2 ^ sh = ((roundHalfEven k sh * 2 ^ sh : Nat) : Int) := by push_cast; rfl
  rw [hcast]
  generalize roundHalfEven k sh * 2 ^ sh = p at *
  generalize 2 ^ sh = d at *
  exact ⟨by omega, fun h => heven (by omega)⟩

theorem b64Nearest_error (a : Double) :
    (2 * (b64Nearest a * 2 ^ 1074 - b64Int a)).natAbs ≤ 2 ^ 1074
      ∧ ((2 * (b64Nearest a * 2 ^ 1074 - b64Int a)).natAbs = 2 ^ 1074 → b64Nearest a % 2 = 0) := by
  obtain ⟨hle, heven⟩ := roundHalfEven_error (b64Mag a) 1074
  unfold b64Nearest b64Int
  generalize roundHalfEven (b64Mag a) 1074 = m at *
  generalize (2 : Int) ^ 1074 = u at *
  generalize 2 ^ 1074 = v at *
  by_cases hs : b64Sign a = true
  · have hflip : 2 * (-(m : Int) * u - -(b64Mag a : Int)) = -(2 * (m * u - b64Mag a)) := by ring
    rw [if_pos hs, if_pos hs, hflip, Int.natAbs_neg]
    exact ⟨hle, fun h => by have := heven h; omega⟩
  · rw [if_neg hs, if_neg hs]
    exact ⟨hle, fun h => by have := heven h; omega⟩

/-! ### The real value of a binary64 number -/

/-- The real number a finite binary64 number stands for (R111): `b64Int` counts units of 2^−1074. -/
noncomputable def b64Val (a : Double) : ℝ := (b64Int a : ℝ) / 2 ^ 1074

/-- A positive scale keeps the sign of a value. -/
theorem b64Val_neg_iff (a : Double) : b64Val a < 0 ↔ b64Int a < 0 := by
  have hu : (0 : ℝ) < 2 ^ 1074 := pow_pos two_pos _
  rw [b64Val, div_lt_iff₀ hu, zero_mul, Int.cast_lt_zero]

theorem b64Val_eq_zero (a : Double) : b64Val a = 0 ↔ b64IsZero a = true := by
  have hu : (2 : ℝ) ^ 1074 ≠ 0 := pow_ne_zero _ two_ne_zero
  rw [b64Val, div_eq_zero_iff, or_iff_left hu, Int.cast_eq_zero, b64Int_eq_zero]

theorem b64Val_cvt (s : Sample) : b64Val (b64Cvt s) = s.toInt := by
  have hu : (2 : ℝ) ^ 1074 ≠ 0 := pow_ne_zero _ two_ne_zero
  rw [b64Val, (b64Cvt_exact s).2, Int.cast_mul, Int.cast_pow, Int.cast_ofNat, mul_div_cancel_right₀ _ hu]

/-- The distance of a fraction from an integer, by the doubled numerators. -/
theorem abs_div_sub_eq (z n : Int) (k : Nat) :
    |(z : ℝ) / 2 ^ k - n| = ((2 * (n * 2 ^ k - z)).natAbs : ℝ) / (2 ^ k : Nat) * (1 / 2) := by
  have hu : (0 : ℝ) < 2 ^ k := pow_pos two_pos _
  have hsplit : (z : ℝ) / 2 ^ k - n = -(2 * (n * 2 ^ k - z)) / 2 ^ k * (1 / 2) := by field_simp; ring
  rw [hsplit, abs_mul, abs_div, abs_neg, abs_of_pos hu, abs_of_pos (one_half_pos (α := ℝ)), Nat.cast_natAbs]
  push_cast
  rfl

theorem abs_div_sub_le_half (z n : Int) (k : Nat) :
    |(z : ℝ) / 2 ^ k - n| ≤ 1 / 2 ↔ (2 * (n * 2 ^ k - z)).natAbs ≤ 2 ^ k := by
  have hu : (0 : ℝ) < (2 ^ k : Nat) := Nat.cast_pos.2 (Nat.two_pow_pos k)
  rw [abs_div_sub_eq, mul_le_iff_le_one_left one_half_pos, div_le_one hu, Nat.cast_le]

theorem abs_div_sub_eq_half (z n : Int) (k : Nat) :
    |(z : ℝ) / 2 ^ k - n| = 1 / 2 ↔ (2 * (n * 2 ^ k - z)).natAbs = 2 ^ k := by
  have hu : ((2 ^ k : Nat) : ℝ) ≠ 0 := Nat.cast_ne_zero.2 (Nat.two_pow_pos k).ne'
  rw [abs_div_sub_eq, mul_eq_right₀ one_half_pos.ne', div_eq_one_iff_eq hu, Nat.cast_inj]

/-- `q16` is the quantised form of the value (R120). -/
theorem b64Q16_quantised (a : Double) : quantisedTo (b64Val a) (b64Q16 a) := by
  obtain ⟨hle, heven⟩ := b64Nearest_error a
  exact ⟨b64Nearest a, (abs_div_sub_le_half _ _ _).2 hle, fun h => heven ((abs_div_sub_eq_half _ _ _).1 h), b64Q16_eq a⟩

/-! ### The laws -/

@[simp] theorem binary64_zero (nan : Double) : (binary64 nan).zero = 0#64 := rfl

/-- binary64 meets the laws of NUM, with the real value `b64Val`, for every pattern of a produced NaN (R111, R121). -/
theorem binary64_laws (nan : Double) : NumLaws (binary64 nan) where
  zero_finite := by rw [binary64_zero]; exact (by decide : b64Finite 0#64 = true)
  cvt_finite := fun s => (b64Cvt_exact s).1
  dec_enc := fun _ => rfl
  value := by
    refine ⟨b64Val, (b64Val_eq_zero 0#64).2 (by decide), b64Val_cvt, fun a ha => ⟨?_, b64Q16_quantised a, fun h0 => ?_⟩⟩
    · exact (b64Neg0_iff ha).trans (b64Val_neg_iff a).symm
    · exact b64Add_zero nan ha (by simpa [b64Val_eq_zero] using h0)

/-- The NUM of every implementation is a format that meets the laws, over the codes of its values: binary64 for code 1, the
model's argument for every other (R7, R25). -/
theorem numOf_lawful (fmt : BitVec 8) (nan : Double) : ∃ (α : Type) (F : NumOps α), NumLaws F ∧ numOf fmt nan = encoded F := by
  by_cases h : fmt = Config.defaultFmt
  · exact ⟨Double, binary64 nan, binary64_laws nan, by rw [h, numOf_default, encoded_binary64]⟩
  · exact ⟨_, (otherFormat fmt).ops, (otherFormat fmt).laws, numOf_other h nan⟩

/-- Settles O40: binary64 meets the laws with the value `b64Val`, every other format carries its laws, and what holds of a lawful
format passes to its encoded form. -/
theorem everyNumMeetsItsLaws : Obligations.EveryNumMeetsItsLaws := by
  refine ⟨fun fmt nan => ?_, fun s hs => ?_, fun nan => ?_⟩
  · obtain ⟨α, F, hF, he⟩ := numOf_lawful fmt nan
    exact ⟨α, F, hF, he, fun a => by rw [he]; exact encoded_enc_dec hF a⟩
  · exact ⟨format_of_default hs, s.freeNaN, b64IsNaN_freeNaN s, num_of_default hs⟩
  · have laws := binary64_laws nan
    exact ⟨laws, laws.zero_finite, laws.cvt_finite, fun _ => b64Add_zero nan, laws.dec_enc, fun _ => rfl⟩

end Sys2Proof.Machine
end

section
/-! PROOFS. The command word and its command determine each other (R92, R95); what the completion of a long command does (R45);
what one step of the machine can do, once: the relation `Move`. -/

namespace Sys2Proof.Machine

/-! ### The command word -/

/-- The word of a command decodes to it (R92, R95). -/
theorem decode_encode (i : Instr) : decode (encode i) = .ok i := by
  cases i with
  | residual ref => cases ref <;> decide
  | process ref => cases ref <;> decide
  | nop | configure | dispose | resetw | estimate | adapt | clrerr => decide

theorem wordOfFields_fieldsOfWord (c : Word) : wordOfFields (fieldsOfWord c) = c := by
  have bit : BitVec.ofBool (c.getLsbD 8) = c.extractLsb' 8 1 := by
    ext j hj
    have hj0 : j = 0 := by omega
    subst hj0
    simp [BitVec.getLsbD_eq_getElem]
  have low : (c.extractLsb' 9 23 ++ c.extractLsb' 8 1 : BitVec 24) = c.extractLsb' 8 24 :=
    BitVec.extractLsb'_append_extractLsb'_eq_extractLsb' rfl
  have all : (c.extractLsb' 8 24 ++ c.extractLsb' 0 8 : BitVec 32) = c.extractLsb' 0 32 :=
    BitVec.extractLsb'_append_extractLsb'_eq_extractLsb' rfl
  have whole : c.extractLsb' 0 32 = c := by simp
  simp only [wordOfFields, fieldsOfWord, bit]
  exact (congrArg (· ++ c.extractLsb' 0 8) low).trans (all.trans whole)

/-- The fields of a word that is not illegal (R94). -/
theorem illegal?_none {f : CmdFields} (h : f.illegal? = none) :
    f.rsv = 0#23 ∧ (f.ref = true → f.opc = 0x05#8 ∨ f.opc = 0x07#8) := by
  unfold CmdFields.illegal? at h
  split at h
  · cases h
  · split at h
    · cases h
    · split at h
      · cases h
      · next hrsv _ href => exact ⟨by simpa using hrsv, fun hr => by by_contra hc; exact href ⟨hr, not_or.1 hc⟩⟩

/-- A command has the code and the flag that name it (R92, R93). -/
theorem fields_of_commandOf {opc : BitVec 8} {ref : Bool} {i : Instr} (h : commandOf opc ref = some i)
    (hr : ref = true → opc = 0x05#8 ∨ opc = 0x07#8) : i.opc = opc ∧ i.refFlag = ref := by
  have code : ∀ {n : Nat}, opc.toNat = n → BitVec.ofNat 8 n = opc := fun hn => by
    rw [← hn, BitVec.ofNat_toNat, BitVec.setWidth_eq]
  have noFlag : opc.toNat ≠ 5 → opc.toNat ≠ 7 → false = ref := fun h5 h7 => by
    cases ref
    · rfl
    · rcases hr rfl with rfl | rfl
      · exact absurd rfl h5
      · exact absurd rfl h7
  unfold commandOf at h
  split at h <;> cases h
  case h_6 hn => exact ⟨code hn, rfl⟩
  case h_8 hn => exact ⟨code hn, rfl⟩
  all_goals next hn => exact ⟨code hn, noFlag (by omega) (by omega)⟩

/-- Only the word of a command decodes to it. -/
theorem encode_of_decode {c : Word} {i : Instr} (h : decode c = .ok i) : encode i = c := by
  unfold decode at h
  simp only at h
  split at h
  · cases h
  · next hlegal =>
    split at h
    · next hcmd =>
      cases h
      obtain ⟨hrsv, href⟩ := illegal?_none hlegal
      obtain ⟨hopc, hflag⟩ := fields_of_commandOf hcmd href
      have hf : i.fields = fieldsOfWord c := by
        rw [Instr.fields, hopc, hflag, ← hrsv]
      rw [encode, hf, wordOfFields_fieldsOfWord]
    · cases h

/-! ### The two phases of a command -/

/-- What a long command does before the engine ends it: the bodies of R132, R134, R147, R156, R165 and R176. -/
def longBody : Instr → State → State
  | .configure, s => configureBody s
  | .resetw, s => resetwBody s
  | .estimate, s => (estimateBody s).1
  | .residual ref, s => (residualBody ref s).1
  | .adapt, s => (adaptBody s).1
  | .process ref, s => (processBody ref s).1
  | .nop, s | .dispose, s | .clrerr, s => s

/-- The complete step of a long command: its body, then the end of R45. -/
theorem exec_long_busy {i : Instr} {s : State} (hl : i.isLong = true) (hb : s.busy = true) :
    exec i s = .next (completeCommand (longBody i s)) := by
  cases i with
  | configure => exact exec_configure_busy hb
  | resetw => exact exec_resetw_busy hb
  | estimate => exact exec_estimate_busy hb
  | residual ref => exact exec_residual_busy hb
  | adapt => exact exec_adapt_busy hb
  | process ref => exact exec_process_busy hb
  | nop | dispose | clrerr => cases hl

/-- A long command is checked beyond R136 only when it is CONFIGURE (R132). -/
theorem exec_long (s : State) {i : Instr} (hl : i.isLong = true) :
    ∃ check body, exec i s = runLong i check body s ∧ (i = .configure → check = configCheck) := by
  cases i with
  | configure => exact ⟨_, _, exec_configure s, fun _ => rfl⟩
  | resetw => exact ⟨_, _, exec_resetw s, nofun⟩
  | estimate => exact ⟨_, _, exec_estimate s, nofun⟩
  | residual ref => exact ⟨_, _, exec_residual ref s, nofun⟩
  | adapt => exact ⟨_, _, exec_adapt s, nofun⟩
  | process ref => exact ⟨_, _, exec_process ref s, nofun⟩
  | nop | dispose | clrerr => cases hl

theorem configMask_of_configCheck {s : State} (h : configCheck s = none) : configMask s = 0#32 := by
  unfold configCheck at h
  split at h
  · assumption
  · cases h

/-- The next state of the delivery of a command (R130): refused with SEQUENCE or CONFIG, a short command done, or a long
command accepted. -/
inductive Delivered : Instr → State → State → Prop
  | refused {i s c} (m : Word) : c ≠ .none → c ≠ .numeric → Delivered i s (raiseError c m s)
  | nop {s} : Delivered .nop s s
  | dispose {s} : Delivered .dispose s (disposeBody s)
  | clrerr {s} : Delivered .clrerr s (clearError s)
  | accepted {i s} : i.isLong = true → permitted i s = true → (i = .configure → configMask s = 0#32) →
      Delivered i s (acceptCommand (encode i) s)

theorem runShort_delivered {i : Instr} {body : State → State} {s t : State} (hb : s.busy = false)
    (h : runShort i body s = .next t) (hbody : Delivered i s (body s)) : Delivered i s t := by
  rcases runShort_cases i body s with ⟨h1, -⟩ | ⟨-, -, h1⟩ | ⟨-, -, h1⟩
  · rw [hb] at h1; cases h1
  · rw [h1] at h; cases h; exact hbody
  · rw [h1] at h; cases h; exact .refused _ nofun nofun

theorem exec_delivered {i : Instr} {s t : State} (hb : s.busy = false) (h : exec i s = .next t) : Delivered i s t := by
  have long (hl : i.isLong = true) : Delivered i s t := by
    obtain ⟨check, body, he, hc⟩ := exec_long s hl
    rw [he] at h
    rcases runLong_cases i check body s with ⟨h1, -⟩ | ⟨-, -, h1⟩ | ⟨-, hp, ⟨m, -, h1⟩ | ⟨hn, h1⟩⟩
    · rw [hb] at h1; cases h1
    · rw [h1] at h; cases h; exact .refused _ nofun nofun
    · rw [h1] at h; cases h; exact .refused _ nofun nofun
    · rw [h1] at h; cases h
      exact .accepted hl hp fun hi => configMask_of_configCheck (hc hi ▸ hn)
  cases i with
  | nop => exact runShort_delivered (body := fun s => s) hb h .nop
  | dispose => exact runShort_delivered hb h .dispose
  | clrerr => exact runShort_delivered hb h .clrerr
  | configure | resetw | estimate | residual | adapt | process => exact long rfl

/-! ### One step -/

/-- What one step can do: the event it takes (`none` when none is left), the state that no longer lists it, the next state. -/
inductive Move : Option Event → State → State → Prop
  /-- An idle AFE waits (R45, R216). -/
  | wait {e s} : s.busy = false → Move e s s
  /-- A read, or a refused write (R76, R192). -/
  | answer {e s} (r : Response) : Move e s (respond r s)
  | illegal {e s} (c : Word) : s.busy = false → Move e s (raiseError .illegal c (respond .done s))
  | deliver {s t i} : s.busy = false → Delivered i (respond .done s) t → Move (some (.write cmdOffset (encode i))) s t
  /-- A write to a configuration register (R26 to R28, R67). -/
  | config {e s} (n l lo hi : Word) : s.busy = false → s.st = .unconfigured →
      Move e s (respond .done { s with cfgN := n, cfgL := l, cfgMuLo := lo, cfgMuHi := hi })
  /-- A write to `IRQ_EN` or `IRQ_PEND` (R38). -/
  | interrupt {e s} (en p : BitVec 2) : Move e s (respond .done { s with irqEn := en, irqPend := p })
  | source {e s i} (v : Sample) : s.busy = false → i < s.nmax →
      Move e s (respond .done (clearFresh { s with xbuf := bufSet 0#16 s.xbuf i v }))
  | desired {e s i} (v : Sample) : s.busy = false → i < s.nmax →
      Move e s (respond .done { s with dbuf := bufSet 0#16 s.dbuf i v, eFresh := false })
  | coefficient {s a v} : regionOf a = .wmem → s.busy = false → numIndex a < s.lmax →
      Move (some (.write a v)) s (respond .done (writeWmem a v s))
  /-- The engine's complete step (R45). -/
  | complete {e s i} : s.busy = true → decode s.pend = .ok i → i.isLong = true → Move e s (completeCommand (longBody i s))
  | reset {s} : Move (some .reset) s (resetMachine s)

theorem engineStep_move (e : Option Event) {s t : State} (h : engineStep s = .next t) : Move e s t := by
  rcases engineStep_cases s with ⟨hb, h1⟩ | ⟨i, hb, hd, hl, h1⟩ | ⟨-, h1⟩ <;> rw [h1] at h
  · cases h; exact .wait hb
  · rw [exec_long_busy hl hb] at h; cases h; exact .complete hb hd hl
  · cases h

/-- A permitted write to a register other than `CMD`: a configuration register of an engine that is unconfigured and idle, or
an interrupt register (R23, R64, R66, R67). -/
theorem csrWrite_move {a : Offset} {v : Word} {s : State} {r : Csr} (hr : csrOf a = some r) (hcmd : r ≠ .cmd)
    (h : csrWriteError a s = none) (e : Option Event) : Move e s (respond .done (csrWrite r v s)) := by
  simp only [csrWriteError, hr] at h
  have locked (hc : r.isConfig = true) (hro : r.readOnly = false) : s.busy = false ∧ s.st = .unconfigured := by
    cases hb : s.busy <;> by_cases hs : s.st = .unconfigured <;> simp [hc, hro, hb, hs] at h ⊢
  cases r with
  | cfgN | cfgL | cfgMuLo | cfgMuHi => exact .config _ _ _ _ (locked rfl rfl).1 (locked rfl rfl).2
  | irqEn | irqPend => exact .interrupt _ _
  | cmd => exact absurd rfl hcmd
  | id | capN | capL | capFmt | status | cause | einfo | seqLo | seqHi => cases h

theorem quotient_of_csr {a : Offset} (h : regionOf a = .csr) : a.toNat / 65536 = 0 := by
  rw [regionOf_eq] at h
  split at h
  case h_1 hq => exact hq
  all_goals cases h

theorem quotient_of_wmem {a : Offset} (h : regionOf a = .wmem) : a.toNat / 65536 = 3 := by
  rw [regionOf_eq] at h
  split at h
  case h_4 hq => exact hq
  all_goals cases h

/-- `CMD` is the register of one offset alone (R22, R63). -/
theorem csrOf_cmd {a : Offset} (hreg : regionOf a = .csr) (h : csrOf a = some .cmd) : a = cmdOffset := by
  have hlow : (a.extractLsb' 0 16).toNat = 0x20 := by
    unfold csrOf at h
    split at h
    case h_9 h0 => exact h0
    all_goals cases h
  have hhigh := quotient_of_csr hreg
  rw [BitVec.extractLsb'_toNat, Nat.shiftRight_zero] at hlow
  refine BitVec.eq_of_toNat_eq ?_
  show a.toNat = 0x20
  omega

/-- A permitted write to a register or a buffer (R84). -/
theorem writeEffect_move {a : Offset} {v : Word} {s : State} (hc : a ≠ cmdOffset) (h : writeError a v s = none) :
    Move (some (.write a v)) s (respond .done (writeEffect a v s)) := by
  rcases writeError_none h with ⟨hreg, hcsr⟩ | ⟨hreg, hbuf, -⟩ | ⟨hreg, hbuf⟩
  · cases hr : csrOf a with
    | none => simp [csrWriteError, hr] at hcsr
    | some r =>
      have he : writeEffect a v s = csrWrite r v s := by simp [writeEffect, hreg, hr]
      rw [he]
      exact csrWrite_move hr (fun hcmd => hc (csrOf_cmd hreg (hcmd ▸ hr))) hcsr _
  · obtain ⟨-, hb, hi⟩ := bufferError_none hbuf
    rcases hreg with hreg | hreg
    · have he : writeEffect a v s = clearFresh { s with xbuf := bufSet 0#16 s.xbuf (sampleIndex a) (asI16 v) } := by
        simp [writeEffect, hreg]
      rw [he]
      exact .source _ hb (by simpa [hreg, regionIndexOk] using hi)
    · have he : writeEffect a v s = { s with dbuf := bufSet 0#16 s.dbuf (sampleIndex a) (asI16 v), eFresh := false } := by
        simp [writeEffect, hreg]
      rw [he]
      exact .desired _ hb (by simpa [hreg, regionIndexOk] using hi)
  · obtain ⟨-, hb, hi⟩ := bufferError_none hbuf
    have he : writeEffect a v s = writeWmem a v s := by simp [writeEffect, hreg]
    rw [he]
    exact .coefficient hreg hb (by simpa [hreg, regionIndexOk] using hi)

theorem runEvent_move {e : Event} {s t : State} (h : runEvent e s = .next t) : Move (some e) s t := by
  cases e with
  | read a =>
    rcases hostRead_cases a s with ⟨-, h1⟩ | ⟨-, h1⟩ <;> simp only [runEvent, h1] at h <;> cases h
    · exact .answer _
    · exact .answer _
  | write a v =>
    rcases hostWrite_cases a v s with ⟨-, h1⟩ | ⟨-, hb, -, h1⟩ | ⟨i, rfl, hb, hd, h1⟩ | ⟨hc, hw, h1⟩ <;>
      simp only [runEvent, h1] at h
    · cases h; exact .answer _
    · cases h; exact .illegal _ hb
    · obtain rfl := encode_of_decode hd
      exact .deliver hb (exec_delivered hb h)
    · cases h; exact writeEffect_move hc hw
  | engine => exact engineStep_move _ h
  | reset => cases h; exact .reset

/-- A step is a move on the state without the event it takes. -/
theorem step_move {s t : State} (h : step s = .next t) : Move s.inputs.head? { s with inputs := s.inputs.tail } t := by
  rcases step_cases s with ⟨h0, h1⟩ | ⟨e, rest, h0, h1⟩ <;> rw [h1] at h
  · have hs : { s with inputs := s.inputs.tail } = s := by
      rw [show s.inputs.tail = s.inputs by rw [h0]; rfl]
    rw [hs]
    exact engineStep_move _ h
  · rw [h0]
    exact runEvent_move h

end Sys2Proof.Machine
end

section
/-! PROOFS. O53 and O52: the invariants of R47 hold after reset and every step keeps them. -/

namespace Sys2Proof.Machine

/-! ### How a pass ends -/

/-- What recording an error does, NUMERIC apart (R189). -/
theorem raiseError_eq {c : Cause} (hc : c ≠ .numeric) (m : Word) (s : State) :
    raiseError c m s = { s with
      err := true, cause := if s.err then s.cause else c, einfo := if s.err then s.einfo else m,
      irqPend := s.irqPend ||| 0b10#2 } := by
  cases c with
  | numeric => exact absurd rfl hc
  | none | config | sequence | illegal => simp only [raiseError, recordError]; split <;> simp_all

/-- NUMERIC halts the engine beside (R189, R195). -/
theorem raiseError_numeric_eq (m : Word) (s : State) :
    raiseError .numeric m s = { s with
      err := true, cause := if s.err then s.cause else .numeric, einfo := if s.err then s.einfo else m,
      irqPend := s.irqPend ||| 0b10#2, st := .fault, yFresh := false, eFresh := false } := by
  simp only [raiseError, recordError]; split <;> simp_all

/-- What holds after an end without anomaly and after a halt holds after a pass. -/
theorem endPass_ind {P : State → Prop} (stage : BitVec 2) {done : State → State} {s : State}
    {r : Datapath NumCode × Option Anomaly} (hdone : r.2 = none → P (done (s.withDatapath r.1)))
    (hhalt : ∀ m, P (raiseError .numeric m (s.withDatapath r.1))) : P (endPass stage done s r).1 := by
  rcases endPass_cases stage done s r with ⟨hr, h⟩ | ⟨e, -, h⟩ <;> rw [h]
  · exact hdone hr
  · exact hhalt _

/-- A body that goes on has ended its pass with `done`. -/
theorem endPass_true {stage : BitVec 2} {done : State → State} {s : State} {r : Datapath NumCode × Option Anomaly}
    (h : (endPass stage done s r).2 = true) : (endPass stage done s r).1 = done (s.withDatapath r.1) := by
  rcases endPass_cases stage done s r with ⟨-, h1⟩ | ⟨e, -, h1⟩
  · rw [h1]
  · rw [h1] at h; cases h

/-- The body of PROCESS is that of the step that ends it (R176). -/
theorem processBody_cases (ref : Bool) (s : State) :
    processBody ref s = estimateBody s ∨
      ((estimateBody s).2 = true ∧ processBody ref s = residualBody ref (estimateBody s).1) ∨
      ((estimateBody s).2 = true ∧ (residualBody ref (estimateBody s).1).2 = true ∧
        processBody ref s = adaptBody (residualBody ref (estimateBody s).1).1) := by
  unfold processBody andThen
  cases h1 : (estimateBody s).2
  · simp [h1]
  · cases h2 : (residualBody ref (estimateBody s).1).2 <;> simp [h2]

/-! ### What the passes leave of the line past its length and of the buffers they do not write -/

theorem estPass_keeps (F : NumOps NumCode) (N : Nat) {L : Nat} (hL : 0 < L) (x : Nat → Sample) (d : Datapath NumCode) :
    (∀ k, L ≤ k → bufGet 0#16 (estPass F N L x d).1.tdl k = bufGet 0#16 d.tdl k) ∧ (estPass F N L x d).1.wmem = d.wmem := by
  have of {m d'} (h : EstUpTo F L x d m d') :
      (∀ k, L ≤ k → bufGet 0#16 d'.tdl k = bufGet 0#16 d.tdl k) ∧ d'.wmem = d.wmem :=
    ⟨fun k hk => by rw [h.line, lineAfter, if_neg (Nat.not_lt.2 hk)], h.wmem⟩
  obtain ⟨hnone, hsome⟩ := estPass_spec F N hL x d
  cases hr : (estPass F N L x d).2 with
  | none => exact of (hnone hr).1
  | some e => obtain ⟨-, -, h, -⟩ := hsome e hr; exact of h

theorem resPass_keeps (F : NumOps NumCode) (N : Nat) (src : Nat → Sample) (d : Datapath NumCode) :
    (resPass F N src d).1.tdl = d.tdl ∧ (resPass F N src d).1.wmem = d.wmem ∧ (resPass F N src d).1.ybuf = d.ybuf := by
  obtain ⟨hnone, hsome⟩ := resPass_spec F N src d
  cases hr : (resPass F N src d).2 with
  | none => obtain ⟨h, -⟩ := hnone hr; exact ⟨h.tdl, h.wmem, h.ybuf⟩
  | some e => obtain ⟨-, -, h, -⟩ := hsome e hr; exact ⟨h.tdl, h.wmem, h.ybuf⟩

theorem adpPass_keeps_line (F : NumOps NumCode) (mu : NumCode) (N : Nat) {L : Nat} (hL : 0 < L) (x : Nat → Sample)
    (d : Datapath NumCode) {k : Nat} (hk : L ≤ k) :
    bufGet 0#16 (adpPass F mu N L x d).1.tdl k = bufGet 0#16 d.tdl k := by
  have of {n c m d'} (h : AdpUpTo F mu L x d n c m d') : bufGet 0#16 d'.tdl k = bufGet 0#16 d.tdl k := by
    rw [h.line, lineAfter, if_neg (Nat.not_lt.2 hk)]
  obtain ⟨hnone, hsome⟩ := adpPass_spec F mu N hL x d
  cases hr : (adpPass F mu N L x d).2 with
  | none => exact of (hnone hr).1
  | some e => obtain ⟨-, -, h, -⟩ := hsome e hr; exact of h

/-! ### The invariants that hold inside a complete step too -/

/-- The configuration check of R132 is R47 (b). -/
theorem configured_of_configMask {s : State} (h : configMask s = 0#32) : s.Configured := by
  obtain ⟨hneg, hfin, hLm, hL, hNm, hN⟩ := (sixBits_zero ..).1 h
  rw [Bool.not_eq_false'] at hfin
  rw [hfin, Bool.true_and] at hneg
  simp only [decide_eq_false_iff_not, BitVec.lt_def, BitVec.toNat_eq, BitVec.toNat_ofNat, Nat.not_lt] at hLm hL hNm hN
  exact ⟨Nat.pos_of_ne_zero hN, hNm, Nat.pos_of_ne_zero hL, hLm, hfin, hneg⟩

/-- The estimate step ended without anomaly: READY as before, `Y_FRESH` set (R147). -/
theorem estimateBody_true {s : State} (h : (estimateBody s).2 = true) :
    (estimateBody s).1.st = s.st ∧ (estimateBody s).1.yFresh = true := by
  rw [estimateBody, endPass_true h]
  exact ⟨rfl, rfl⟩

theorem residualBody_true {ref : Bool} {s : State} (h : (residualBody ref s).2 = true) : (residualBody ref s).1.st = s.st := by
  rw [residualBody, endPass_true h]
  rfl

/-- `State.Inv` without the command latch, the sequencer and the NUM values: what every body keeps. -/
structure State.BodyInv (s : State) : Prop where
  depths : s.DepthsOk
  configured : s.st ≠ .unconfigured → s.Configured
  freshOrder : s.eFresh = true → s.yFresh = true
  freshReady : s.yFresh = true → s.st = .ready
  record : s.cause = .none ↔ s.err = false
  recordInfo : s.err = false → s.einfo = 0#32
  taps : s.st ≠ .unconfigured → ∀ k, s.lenL ≤ k → s.tAt k = 0#16
  memory : Memory.wf s = true

theorem State.Inv.body {s : State} (h : s.Inv) : s.BodyInv :=
  ⟨h.depths, h.configured, h.freshOrder, h.freshReady, h.record, h.recordInfo, h.taps, h.memory⟩

/-- `State.Inv` does not look at the events to come. -/
theorem State.Inv.withInputs {s : State} (h : s.Inv) (l : List Event) : { s with inputs := l }.Inv :=
  ⟨h.depths, h.configured, h.freshOrder, h.freshReady, h.record, h.recordInfo, h.taps, h.latch, h.sequencer, h.memory,
    ⟨h.numbers.wmem, h.numbers.ybuf, h.numbers.ebuf, h.numbers.acc, h.numbers.g⟩⟩

theorem State.Inv.of_body {s : State} (h : s.BodyInv) (hl : s.busy = true → s.PendOk) (hs : s.seqr.phase = .idle)
    (hn : s.NumbersOk) : s.Inv :=
  ⟨h.depths, h.configured, h.freshOrder, h.freshReady, h.record, h.recordInfo, h.taps, hl, hs, h.memory, hn⟩

namespace State.BodyInv

variable {s : State}

/-- Without `Y_FRESH` there is no `E_FRESH` (R47 c). -/
theorem stale (h : s.BodyInv) (hy : s.yFresh = false) : s.eFresh = false := by
  cases he : s.eFresh
  · rfl
  · rw [h.freshOrder he] at hy; cases hy

theorem not_fresh (h : s.BodyInv) (hst : s.st = .unconfigured) : s.yFresh = false := by
  cases hy : s.yFresh
  · rfl
  · rw [h.freshReady hy] at hst; cases hst

theorem configured_of_ready (h : s.BodyInv) (hst : s.st = .ready) : s.Configured := h.configured (by rw [hst]; nofun)

theorem respond (h : s.BodyInv) (r : Response) : (respond r s).BodyInv :=
  ⟨h.depths, h.configured, h.freshOrder, h.freshReady, h.record, h.recordInfo, h.taps, h.memory⟩

theorem accept (h : s.BodyInv) (c : Word) : (acceptCommand c s).BodyInv :=
  ⟨h.depths, h.configured, h.freshOrder, h.freshReady, h.record, h.recordInfo, h.taps, h.memory⟩

theorem interrupt (h : s.BodyInv) (en p : BitVec 2) : { s with irqEn := en, irqPend := p }.BodyInv :=
  ⟨h.depths, h.configured, h.freshOrder, h.freshReady, h.record, h.recordInfo, h.taps, h.memory⟩

theorem complete (h : s.BodyInv) : (completeCommand s).BodyInv :=
  ⟨h.depths, h.configured, h.freshOrder, h.freshReady, h.record, h.recordInfo, h.taps, completeCommand_memory_wf h.memory⟩

theorem clearError (h : s.BodyInv) : (clearError s).BodyInv :=
  ⟨h.depths, h.configured, h.freshOrder, h.freshReady, ⟨fun _ => rfl, fun _ => rfl⟩, fun _ => rfl, h.taps, h.memory⟩

/-- The record after an error names one (R35, R189). -/
theorem recorded (h : s.BodyInv) {c : Cause} (hc : c ≠ .none) : (if s.err then s.cause else c) = .none ↔ true = false := by
  cases he : s.err
  · simp [hc]
  · simp [h.record, he]

theorem refuse (h : s.BodyInv) {c : Cause} (hc : c ≠ .none) (hn : c ≠ .numeric) (m : Word) : (raiseError c m s).BodyInv := by
  rw [raiseError_eq hn]
  exact ⟨h.depths, h.configured, h.freshOrder, h.freshReady, h.recorded hc, nofun, h.taps, h.memory⟩

theorem halt (h : s.BodyInv) (hst : s.st ≠ .unconfigured) (m : Word) : (raiseError .numeric m s).BodyInv := by
  rw [raiseError_numeric_eq]
  exact ⟨h.depths, fun _ => h.configured hst, nofun, nofun, h.recorded nofun, nofun, fun _ => h.taps hst, h.memory⟩

/-- A new coefficient or source buffer in canonical form makes both flags stale (R33). -/
theorem clearFresh (h : s.BodyInv) : (clearFresh s).BodyInv :=
  ⟨h.depths, h.configured, nofun, nofun, h.record, h.recordInfo, h.taps, h.memory⟩

theorem config (h : s.BodyInv) (hst : s.st = .unconfigured) (n l lo hi : Word) :
    { s with cfgN := n, cfgL := l, cfgMuLo := lo, cfgMuHi := hi }.BodyInv :=
  ⟨h.depths, fun hne => absurd hst hne, h.freshOrder, h.freshReady, h.record, h.recordInfo, fun hne => absurd hst hne, h.memory⟩

theorem writeSource (h : s.BodyInv) {i : Nat} (hi : i < s.nmax) (v : Sample) :
    { s with xbuf := bufSet 0#16 s.xbuf i v }.BodyInv := by
  obtain ⟨hx, hrest⟩ := (memory_wf_iff s).1 h.memory
  exact ⟨h.depths, h.configured, h.freshOrder, h.freshReady, h.record, h.recordInfo, h.taps,
    (memory_wf_iff _).2 ⟨bufWf_bufSet hx hi v, hrest⟩⟩

theorem writeDesired (h : s.BodyInv) {i : Nat} (hi : i < s.nmax) (v : Sample) :
    { s with dbuf := bufSet 0#16 s.dbuf i v, eFresh := false }.BodyInv := by
  obtain ⟨hx, hd, hrest⟩ := (memory_wf_iff s).1 h.memory
  exact ⟨h.depths, h.configured, nofun, h.freshReady, h.record, h.recordInfo, h.taps,
    (memory_wf_iff _).2 ⟨hx, bufWf_bufSet hd hi v, hrest⟩⟩

theorem writeCoefficient (h : s.BodyInv) {i : Nat} (hi : i < s.lmax) (v : NumCode) :
    { s with wmem := bufSet s.zero s.wmem i v }.BodyInv := by
  obtain ⟨hx, hd, ho, hw, hrest⟩ := (memory_wf_iff s).1 h.memory
  exact ⟨h.depths, h.configured, h.freshOrder, h.freshReady, h.record, h.recordInfo, h.taps,
    (memory_wf_iff _).2 ⟨hx, hd, ho, bufWf_bufSet hw hi v, hrest⟩⟩

theorem dispose (h : s.BodyInv) : (disposeBody s).BodyInv :=
  ⟨h.depths, fun hne => absurd rfl hne, nofun, nofun, h.record, h.recordInfo, fun hne => absurd rfl hne,
    disposeBody_memory_wf s⟩

theorem reset (h : s.BodyInv) : (resetMachine s).BodyInv :=
  ⟨h.depths, fun hne => absurd rfl hne, nofun, nofun, ⟨fun _ => rfl, fun _ => rfl⟩, fun _ => rfl,
    fun hne => absurd rfl hne, resetMachine_memory_wf s⟩

/-- CONFIGURE leaves zero buffers (R132), so the whole line is zero. -/
theorem configure (h : s.BodyInv) (hc : s.Configured) : (configureBody s).BodyInv := by
  have hmem := configureBody_memory_wf h.memory
  refine ⟨h.depths, fun _ => hc, nofun, nofun, h.record, h.recordInfo, fun _ k _ => ?_, hmem⟩
  show bufGet 0#16 (bufClear s.lmax s.tdl) k = 0#16
  by_cases hk : k < s.lmax
  · rw [bufGet_bufClear, if_pos hk]
  · obtain ⟨-, -, -, -, -, -, ht⟩ := (memory_wf_iff _).1 hmem
    exact bufGet_of_bufWf ht (Nat.not_lt.1 hk)

theorem resetw (h : s.BodyInv) (hst : s.st ≠ .unconfigured) : (resetwBody s).BodyInv :=
  ⟨h.depths, fun _ => h.configured hst, nofun, nofun, h.record, h.recordInfo, fun _ => h.taps hst,
    resetwBody_memory_wf h.memory⟩

/-! #### The passes -/

/-- A state takes over canonical buffers and a line that is zero past L. -/
theorem withDatapath (h : s.BodyInv) {d : Datapath NumCode} (hwf : DatapathWf s.zero s.nmax s.lmax d)
    (ht : ∀ k, s.lenL ≤ k → bufGet 0#16 d.tdl k = 0#16) : (s.withDatapath d).BodyInv :=
  ⟨h.depths, h.configured, h.freshOrder, h.freshReady, h.record, h.recordInfo, fun _ => ht,
    withDatapath_memory_wf h.memory hwf⟩

/-- A pass keeps them when its end without anomaly does: an anomaly only halts the engine. -/
theorem endPass (h : s.BodyInv) (hst : s.st = .ready) {r : Datapath NumCode × Option Anomaly}
    (hwf : DatapathWf s.zero s.nmax s.lmax r.1) (ht : ∀ k, s.lenL ≤ k → bufGet 0#16 r.1.tdl k = 0#16) (stage : BitVec 2)
    {done : State → State} (hdone : (s.withDatapath r.1).BodyInv → (done (s.withDatapath r.1)).BodyInv) :
    (endPass stage done s r).1.BodyInv := by
  have hw := h.withDatapath hwf ht
  exact endPass_ind stage (fun _ => hdone hw) fun m => hw.halt (by show s.st ≠ .unconfigured; rw [hst]; nofun) m

theorem estimate (h : s.BodyInv) (hst : s.st = .ready) : (estimateBody s).1.BodyInv := by
  obtain ⟨-, hN, hL, hLm, -⟩ := h.configured_of_ready hst
  refine h.endPass hst (estPass_wf s.num _ (datapath_wf h.memory) hN hL hLm) (fun k hk => ?_) 1#2 fun hw => ?_
  · rw [(estPass_keeps s.num _ hL _ _).1 k hk]
    exact h.taps (by rw [hst]; nofun) k hk
  · exact ⟨hw.depths, hw.configured, nofun, fun _ => hst, hw.record, hw.recordInfo, hw.taps, hw.memory⟩

theorem residual (h : s.BodyInv) (hst : s.st = .ready) (hy : s.yFresh = true) (ref : Bool) :
    (residualBody ref s).1.BodyInv := by
  obtain ⟨-, hN, -⟩ := h.configured_of_ready hst
  refine h.endPass hst (resPass_wf s.num _ (datapath_wf h.memory) hN) (fun k hk => ?_) 2#2 fun hw => ?_
  · rw [(resPass_keeps s.num _ _ _).1]
    exact h.taps (by rw [hst]; nofun) k hk
  · exact ⟨hw.depths, hw.configured, fun _ => hy, hw.freshReady, hw.record, hw.recordInfo, hw.taps, hw.memory⟩

theorem adapt (h : s.BodyInv) (hst : s.st = .ready) : (adaptBody s).1.BodyInv := by
  obtain ⟨-, -, hL, hLm, -⟩ := h.configured_of_ready hst
  refine h.endPass hst (adpPass_wf s.num s.mu _ (datapath_wf h.memory) hL hLm) (fun k hk => ?_) 3#2 fun hw => ?_
  · rw [adpPass_keeps_line s.num _ _ hL _ _ hk]
    exact h.taps (by rw [hst]; nofun) k hk
  · exact ⟨hw.depths, hw.configured, nofun, nofun, hw.record, hw.recordInfo, hw.taps, hw.memory⟩

/-- Each body of PROCESS finds what the one before it left: READY, then `Y_FRESH` (R176). -/
theorem process (h : s.BodyInv) (hst : s.st = .ready) (ref : Bool) : (processBody ref s).1.BodyInv := by
  have hE := h.estimate hst
  have hR (h1 : (estimateBody s).2 = true) : (residualBody ref (estimateBody s).1).1.BodyInv :=
    hE.residual ((estimateBody_true h1).1.trans hst) (estimateBody_true h1).2 ref
  rcases processBody_cases ref s with hp | ⟨h1, hp⟩ | ⟨h1, h2, hp⟩ <;> rw [hp]
  · exact hE
  · exact hR h1
  · exact (hR h1).adapt ((residualBody_true h2).trans ((estimateBody_true h1).1.trans hst))

/-- The body of a command that was permitted keeps them. -/
theorem longBody (h : s.BodyInv) {i : Instr} (hp : permitted i s = true) (hc : i = .configure → configMask s = 0#32) :
    (longBody i s).BodyInv := by
  cases i with
  | configure => exact h.configure (configured_of_configMask (hc rfl))
  | resetw => exact h.resetw (by simpa [permitted] using hp)
  | estimate => exact h.estimate (by simpa [permitted] using hp)
  | residual ref =>
    obtain ⟨hst, hy⟩ : s.st = .ready ∧ s.yFresh = true := by simpa [permitted] using hp
    exact h.residual hst hy ref
  | adapt => exact h.adapt (by simpa [permitted] using hp : s.st = .ready ∧ s.eFresh = true).1
  | process ref => exact h.process (by simpa [permitted] using hp) ref
  | nop | dispose | clrerr => exact h

theorem delivered (h : s.BodyInv) {i : Instr} {t : State} (hd : Delivered i s t) : t.BodyInv := by
  cases hd with
  | refused m hc hn => exact h.refuse hc hn m
  | nop => exact h
  | dispose => exact h.dispose
  | clrerr => exact h.clearError
  | accepted => exact h.accept _

end State.BodyInv

/-! ### The step -/

/-- PEND holds one command, so it is the one that was permitted (R43). -/
theorem State.PendOk.of_decode {s : State} (h : s.PendOk) {i : Instr} (hd : decode s.pend = .ok i) :
    permitted i s = true ∧ (i = .configure → configMask s = 0#32) := by
  obtain ⟨j, hj, -, hp, hc⟩ := h
  obtain rfl : j = i := by rw [hj] at hd; exact Except.ok.inj hd
  exact ⟨hp, hc⟩

theorem Move.bodyInv {e : Option Event} {s t : State} (hm : Move e s t) (h : s.Inv) : t.BodyInv := by
  have hb := h.body
  cases hm with
  | wait => exact hb
  | answer r => exact hb.respond r
  | illegal c => exact (hb.respond _).refuse (c := .illegal) nofun nofun c
  | deliver _ hd => exact (hb.respond _).delivered hd
  | config n l lo hi _ hst => exact (hb.config hst n l lo hi).respond _
  | interrupt en p => exact (hb.interrupt en p).respond _
  | source v _ hi => exact (hb.writeSource hi v).clearFresh.respond _
  | desired v _ hi => exact (hb.writeDesired hi v).respond _
  | coefficient _ _ hi => exact (hb.writeCoefficient hi _).clearFresh.respond _
  | complete hbusy hd _ =>
    obtain ⟨hp, hc⟩ := (h.latch hbusy).of_decode hd
    exact (hb.longBody hp hc).complete
  | reset => exact hb.reset

theorem permitted_acceptCommand (i : Instr) (c : Word) (s : State) : permitted i (acceptCommand c s) = permitted i s := by
  cases i <;> rfl

/-- `BUSY` = 1 after a delivery to an idle AFE: a long command was accepted, and PEND holds it (R43, R130). -/
theorem Delivered.pendOk {i : Instr} {s t : State} (hd : Delivered i s t) (hs : s.busy = false) (ht : t.busy = true) :
    t.PendOk := by
  cases hd with
  | refused => rw [raiseError_busy, hs] at ht; cases ht
  | nop => rw [hs] at ht; cases ht
  | dispose => rw [disposeBody_busy, hs] at ht; cases ht
  | clrerr => rw [clearError_busy, hs] at ht; cases ht
  | accepted hl hp hc => exact ⟨i, decode_encode i, hl, (permitted_acceptCommand i _ s).trans hp, hc⟩

theorem Move.pendOk {e : Option Event} {s t : State} (hm : Move e s t) (h : s.Inv) (ht : t.busy = true) : t.PendOk := by
  have idle {b : Bool} (hs : b = false) (ht : b = true) : t.PendOk := by rw [hs] at ht; cases ht
  cases hm with
  | wait | answer | interrupt => exact h.latch ht
  | illegal _ hs => rw [raiseError_busy] at ht; exact idle hs ht
  | deliver hs hd => exact hd.pendOk hs ht
  | config _ _ _ _ hs | source _ hs | desired _ hs | coefficient _ hs => exact idle hs ht
  | complete | reset => cases ht

theorem Delivered.seqr {i : Instr} {s t : State} (hd : Delivered i s t) : t.seqr = s.seqr := by
  cases hd with
  | refused => exact raiseError_seqr ..
  | nop | dispose | clrerr | accepted => rfl

/-- The sequencer moves inside a complete step only, which ends with it idle (R44, R45). -/
theorem Move.sequencer {e : Option Event} {s t : State} (hm : Move e s t) (h : s.seqr.phase = .idle) : t.seqr.phase = .idle := by
  cases hm with
  | wait | answer | config | interrupt | source | desired | coefficient => exact h
  | illegal => rw [raiseError_seqr]; exact h
  | deliver _ hd => rw [hd.seqr]; exact h
  | complete | reset => rfl

/-- Settles O53: a step is a `Move`, and each kind of move keeps the invariants; the NUM values are kept by `step_numbersOk`. -/
theorem stepKeepsInvariants : Obligations.StepKeepsInvariants := by
  intro s t h ht
  have hm := step_move ht
  have h' := h.withInputs s.inputs.tail
  exact .of_body (hm.bodyInv h') (hm.pendOk h') (hm.sequencer h.sequencer) (step_numbersOk h.numbers ht)

/-- Settles O52: after reset no engine is constructed, nothing is fresh and every buffer is empty. -/
theorem resetMeetsInvariants : Obligations.ResetMeetsInvariants := by
  refine ⟨?_, nofun, nofun⟩
  exact ⟨by decide, fun h => absurd rfl h, nofun, nofun, by decide, fun _ => rfl, fun _ _ _ => rfl, nofun, rfl,
    reset_memory_wf, reset_numbersOk⟩

end Sys2Proof.Machine
end

section
/-! PROOFS. O54: every step keeps the meaning of the freshness flags (R33). -/

namespace Sys2Proof.Machine

variable {s : State}

/-- Stale flags claim nothing. -/
theorem freshMeans_of_stale (hy : s.yFresh = false) (he : s.eFresh = false) : s.FreshMeans :=
  ⟨fun h => absurd h (by rw [hy]; nofun), fun h => absurd h (by rw [he]; nofun)⟩

/-- Flags that no engine can have set (R47 c, d). -/
theorem State.BodyInv.freshMeans_unconfigured (h : s.BodyInv) (hst : s.st = .unconfigured) : s.FreshMeans :=
  freshMeans_of_stale (h.not_fresh hst) (h.stale (h.not_fresh hst))

theorem State.FreshMeans.refuse (h : s.FreshMeans) {c : Cause} (hn : c ≠ .numeric) (m : Word) :
    (raiseError c m s).FreshMeans := by
  rw [raiseError_eq hn]
  exact ⟨h.estimate, h.residual⟩

/-! ### The passes -/

/-- A pass ends with meaningful flags when its end without anomaly does: an anomaly leaves both 0 (R195). -/
theorem endPass_freshMeans {r : Datapath NumCode × Option Anomaly} (stage : BitVec 2) {done : State → State}
    (hdone : r.2 = none → (done (s.withDatapath r.1)).FreshMeans) : (endPass stage done s r).1.FreshMeans := by
  refine endPass_ind stage hdone fun m => ?_
  rw [raiseError_numeric_eq]
  exact freshMeans_of_stale rfl rfl

/-- The estimate step sets `Y_FRESH` over the estimate it has computed (R147, R148). -/
theorem estimateBody_freshMeans (hL : 0 < s.lenL) : (estimateBody s).1.FreshMeans := by
  refine endPass_freshMeans 1#2 fun hr => ⟨fun _ => ⟨s.freeNaN, b64IsNaN_freeNaN s, fun n (hn : n < s.lenN) => ?_⟩, nofun⟩
  obtain ⟨h, hfin⟩ := (estPass_spec s.num s.lenN hL s.xAt s.datapath).1 hr
  set d := (estPass s.num s.lenN s.lenL s.xAt s.datapath).1
  show bufGet s.num.zero d.ybuf n = convAt s.num (bufGet s.num.zero d.wmem) s.xAt s.lenL n
    ∧ s.num.finite (bufGet s.num.zero d.ybuf n) = true
  rw [h.ybuf, if_pos hn, h.wmem]
  exact ⟨rfl, hfin n hn⟩

/-- The source frame as `State.FreshMeans` names it. -/
theorem srcAt_eq (s : State) (ref : Bool) : s.srcAt ref = if ref then s.dAt else s.xAt := by cases ref <;> rfl

/-- The residual step sets `E_FRESH` over the residual of its source frame, and leaves what `Y_FRESH` speaks of (R156). -/
theorem residualBody_freshMeans (h : s.FreshMeans) (ref : Bool) : (residualBody ref s).1.FreshMeans := by
  refine endPass_freshMeans 2#2 fun hr => ?_
  obtain ⟨hres, hfin⟩ := (resPass_spec s.num s.lenN (s.srcAt ref) s.datapath).1 hr
  set d := (resPass s.num s.lenN (s.srcAt ref) s.datapath).1
  have hkept : bufGet s.num.zero d.ybuf = s.yAt ∧ bufGet s.num.zero d.wmem = s.wAt := by
    rw [hres.ybuf, hres.wmem]; exact ⟨rfl, rfl⟩
  refine ⟨fun hy => ?_, fun _ => ⟨s.freeNaN, b64IsNaN_freeNaN s, fun n (hn : n < s.lenN) => ?_⟩⟩
  · obtain ⟨nan, hnan, hest⟩ := h.estimate hy
    refine ⟨nan, hnan, fun n hn => ?_⟩
    show bufGet s.num.zero d.ybuf n = convAt (numOf s.capFmt nan) (bufGet s.num.zero d.wmem) s.xAt s.lenL n
      ∧ s.format.finite (bufGet s.num.zero d.ybuf n) = true
    rw [hkept.1, hkept.2]
    exact hest n hn
  · show bufGet s.num.zero d.ebuf n = residualAt s.num (if ref then s.dAt else s.xAt) (bufGet s.num.zero d.ybuf) n
      ∧ s.num.finite (bufGet s.num.zero d.ebuf n) = true ∧ bufGet 0#16 d.obuf n = s.num.q16 (bufGet s.num.zero d.ebuf n)
    rw [hres.ebuf, hres.obuf, if_pos hn, if_pos hn, hres.ybuf, ← srcAt_eq]
    exact ⟨rfl, hfin n hn, rfl⟩

/-- The adapt step leaves both flags 0 (R165, R195). -/
theorem adaptBody_freshMeans (s : State) : (adaptBody s).1.FreshMeans :=
  endPass_freshMeans 3#2 fun _ => freshMeans_of_stale rfl rfl

theorem processBody_freshMeans (hL : 0 < s.lenL) (ref : Bool) : (processBody ref s).1.FreshMeans := by
  have hE := estimateBody_freshMeans hL
  rcases processBody_cases ref s with hp | ⟨-, hp⟩ | ⟨-, -, hp⟩ <;> rw [hp]
  · exact hE
  · exact residualBody_freshMeans hE ref
  · exact adaptBody_freshMeans _

/-! ### Commands and steps -/

theorem longBody_freshMeans (h : s.FreshMeans) (hb : s.BodyInv) {i : Instr} (hp : permitted i s = true) :
    (longBody i s).FreshMeans := by
  have taps (hst : s.st = .ready) : 0 < s.lenL := by
    obtain ⟨-, -, hL, -⟩ := hb.configured_of_ready hst
    exact hL
  cases i with
  | configure => exact freshMeans_of_stale rfl rfl
  | resetw => exact freshMeans_of_stale rfl rfl
  | estimate => exact estimateBody_freshMeans (taps (by simpa [permitted] using hp))
  | residual ref => exact residualBody_freshMeans h ref
  | adapt => exact adaptBody_freshMeans s
  | process ref => exact processBody_freshMeans (taps (by simpa [permitted] using hp)) ref
  | nop | dispose | clrerr => exact h

theorem Delivered.freshMeans {i : Instr} {t : State} (hd : Delivered i s t) (h : s.FreshMeans) : t.FreshMeans := by
  cases hd with
  | refused m _ hn => exact h.refuse hn m
  | dispose => exact freshMeans_of_stale rfl rfl
  | nop | clrerr | accepted => exact ⟨h.estimate, h.residual⟩

theorem Move.freshMeans {e : Option Event} {t : State} (hm : Move e s t) (hi : s.Inv) (h : s.FreshMeans) : t.FreshMeans := by
  have answered (r : Response) : (respond r s).FreshMeans := ⟨h.estimate, h.residual⟩
  cases hm with
  | wait => exact h
  | answer r => exact answered r
  | interrupt => exact ⟨h.estimate, h.residual⟩
  | illegal c => exact (answered _).refuse (c := .illegal) nofun c
  | deliver _ hd => exact hd.freshMeans (answered _)
  | config n l lo hi' _ hst => exact ((hi.body.config hst n l lo hi').respond _).freshMeans_unconfigured hst
  | source | coefficient | reset => exact freshMeans_of_stale rfl rfl
  | desired => exact ⟨h.estimate, nofun⟩
  | complete hb hd =>
    have hbody := longBody_freshMeans h hi.body ((hi.latch hb).of_decode hd).1
    exact ⟨hbody.estimate, hbody.residual⟩

/-- Settles O54: a step is a `Move`. A move that writes what a flag speaks of clears the flag, and the passes that set one leave
the estimate or the residual behind it. -/
theorem stepKeepsFreshness : Obligations.StepKeepsFreshness := fun s _ hi h ht =>
  (step_move ht).freshMeans (hi.withInputs s.inputs.tail) ⟨h.estimate, h.residual⟩

end Sys2Proof.Machine
end

section
/-! PROOFS. O39, O55, O58, O59, O60, O6 and O7: what the engine's step changes and leaves, and which steps change `SEQ`, the
coefficients and a machine in flight. -/

namespace Sys2Proof.Machine

variable {s t u : State}

/-! ### The engine's step (R45) -/

theorem engineStep_long {i : Instr} (hb : s.busy = true) (hd : decode s.pend = .ok i) (hl : i.isLong = true) :
    engineStep s = exec i s := by
  simp [engineStep, hb, hd, hl]

theorem engineStep_idle (hb : s.busy = false) : engineStep s = .next s := by simp [engineStep, hb]

theorem step_nil (h : s.inputs = []) : step s = engineStep s := by simp [step, runNext, h]

theorem step_cons {e : Event} {rest : List Event} (h : s.inputs = e :: rest) : step s = runEvent e { s with inputs := rest } := by
  simp only [step, runNext, h]

/-- Settles O6: with `BUSY` = 1 the engine's step is the meaning of the command in PEND. -/
theorem stepCompletesPendingCommand : Obligations.StepCompletesPendingCommand := fun s _ hb hd hl =>
  ⟨fun h => (step_nil h).trans (engineStep_long hb hd hl),
    fun rest h => (step_cons h).trans (engineStep_long (s := { s with inputs := rest }) hb hd hl)⟩

/-- Settles O7: with `BUSY` = 0 the engine has no step. -/
theorem idleMachineWaits : Obligations.IdleMachineWaits := fun s hb =>
  ⟨fun h => (step_nil h).trans (engineStep_idle hb),
    fun rest h => (step_cons h).trans (engineStep_idle (s := { s with inputs := rest }) hb)⟩

theorem engineStep_next (h : s.Inv) : ∃ t, engineStep s = .next t := by
  cases hb : s.busy
  · exact ⟨s, engineStep_idle hb⟩
  · obtain ⟨i, hd, hl, -⟩ := h.latch hb
    rw [engineStep_long hb hd hl]
    exact exec_next i s

theorem hostWrite_next (a : Offset) (v : Word) (s : State) : ∃ t, hostWrite a v s = .next t := by
  rcases hostWrite_cases a v s with ⟨-, h⟩ | ⟨-, -, -, h⟩ | ⟨i, -, -, -, h⟩ | ⟨-, -, h⟩ <;> rw [h]
  · exact ⟨_, rfl⟩
  · exact ⟨_, rfl⟩
  · exact exec_next i _
  · exact ⟨_, rfl⟩

/-- Settles O55: only the engine's step can stop, and the latch of `State.Inv` gives it a long command. -/
theorem machineNeverStops : Obligations.MachineNeverStops := by
  intro s h
  rcases step_cases s with ⟨-, h1⟩ | ⟨e, rest, -, h1⟩ <;> rw [h1]
  · exact engineStep_next h
  · cases e with
    | read a => exact ⟨_, rfl⟩
    | write a v => exact hostWrite_next a v _
    | engine => exact engineStep_next (h.withInputs rest)
    | reset => exact ⟨_, rfl⟩

/-! ### The frame of a complete step -/

/-- `t` is `s` but for what the passes, their ends and RESETW may change: the engine's status, the error record, `IRQ_PEND`, `SEQ`,
the buffers a pass writes and the hidden registers. -/
def State.passFrame (s t : State) : Prop :=
  t = { s with
    st := t.st, err := t.err, yFresh := t.yFresh, eFresh := t.eFresh, eRef := t.eRef, cause := t.cause, einfo := t.einfo
    seq := t.seq, irqPend := t.irqPend, obuf := t.obuf, wmem := t.wmem, ybuf := t.ybuf, ebuf := t.ebuf, tdl := t.tdl
    acc := t.acc, g := t.g, seqr := t.seqr, freeCount := t.freeCount }

theorem passFrame_trans (h1 : s.passFrame t) (h2 : t.passFrame u) : s.passFrame u := by
  unfold State.passFrame at *
  rw [h2, h1]

theorem raiseError_frame (m : Word) (h : s.passFrame t) : s.passFrame (raiseError .numeric m t) := by
  refine passFrame_trans h ?_
  rw [raiseError_numeric_eq]
  exact rfl

theorem estimateBody_frame (s : State) : s.passFrame (estimateBody s).1 :=
  endPass_ind (P := s.passFrame) 1#2 (fun _ => rfl) fun m => raiseError_frame m rfl

theorem residualBody_frame (ref : Bool) (s : State) : s.passFrame (residualBody ref s).1 :=
  endPass_ind (P := s.passFrame) 2#2 (fun _ => rfl) fun m => raiseError_frame m rfl

theorem adaptBody_frame (s : State) : s.passFrame (adaptBody s).1 :=
  endPass_ind (P := s.passFrame) 3#2 (fun _ => rfl) fun m => raiseError_frame m rfl

theorem processBody_frame (ref : Bool) (s : State) : s.passFrame (processBody ref s).1 := by
  have hE := estimateBody_frame s
  have hR := passFrame_trans hE (residualBody_frame ref _)
  rcases processBody_cases ref s with h | ⟨-, h⟩ | ⟨-, -, h⟩ <;> rw [h]
  · exact hE
  · exact hR
  · exact passFrame_trans hR (adaptBody_frame _)

theorem longBody_frame {i : Instr} (hi : i ≠ .configure) (s : State) : s.passFrame (longBody i s) := by
  cases i with
  | configure => exact absurd rfl hi
  | estimate => exact estimateBody_frame s
  | residual ref => exact residualBody_frame ref s
  | adapt => exact adaptBody_frame s
  | process ref => exact processBody_frame ref s
  | resetw | nop | dispose | clrerr => rfl

theorem getLsbD_setDone (p : BitVec 2) : (p ||| 0b01#2).getLsbD 0 = true := by simp

/-- Settles O39: the complete step is the command's body and the end of R45; CONFIGURE's body is a record update, and the others
keep `State.passFrame`. -/
theorem completionEndsCommand : Obligations.CompletionEndsCommand := by
  intro i s hl hb
  refine ⟨_, exec_long_busy hl hb, rfl, getLsbD_setDone _, rfl, ?_⟩
  by_cases hi : i = .configure
  · subst hi
    exact ⟨rfl, rfl, rfl, rfl, rfl, rfl, rfl, rfl, rfl, rfl, fun h => absurd rfl h⟩
  · have kept {β : Type} (field : State → β) := congrArg field (longBody_frame hi s)
    exact ⟨kept State.capN, kept State.capL, kept State.capFmt, kept State.cfgN, kept State.cfgL, kept State.cfgMuLo,
      kept State.cfgMuHi, kept State.irqEn, kept State.inputs, kept State.resps,
      fun _ => ⟨kept State.xbuf, kept State.dbuf⟩⟩

/-! ### A command in flight (R32, R66) -/

/-- A move that finds and leaves a command in flight: an answer, or a write to an interrupt register beside. -/
theorem Move.in_flight {e : Option Event} (hm : Move e s t) (hs : s.busy = true) (ht : t.busy = true) :
    ∃ (r : Response) (en p : BitVec 2), t = respond r { s with irqEn := en, irqPend := p } := by
  have busy {P : Prop} (h : s.busy = false) : P := by rw [hs] at h; cases h
  cases hm with
  | answer r => exact ⟨r, s.irqEn, s.irqPend, rfl⟩
  | interrupt en p => exact ⟨.done, en, p, rfl⟩
  | wait h | illegal _ h | deliver h | config _ _ _ _ h | source _ h | desired _ h | coefficient _ h => exact busy h
  | complete | reset => cases ht

/-- Settles O58: with `BUSY` = 1 before and after, a step is an answer or a write to an interrupt register. -/
theorem busyHoldsRegisters : Obligations.BusyHoldsRegisters := by
  intro s t _ h hs ht
  obtain ⟨r, en, p, rfl⟩ := (step_move h).in_flight hs ht
  exact ⟨rfl, rfl, rfl, rfl, rfl, rfl, rfl, rfl, rfl, rfl, rfl, rfl⟩

/-! ### `SEQ` (R37, R170) -/

theorem estimateBody_seq (s : State) : (estimateBody s).1.seq = s.seq :=
  endPass_ind (P := fun t => t.seq = s.seq) 1#2 (fun _ => rfl) fun _ => raiseError_seq ..

theorem residualBody_seq (ref : Bool) (s : State) : (residualBody ref s).1.seq = s.seq :=
  endPass_ind (P := fun t => t.seq = s.seq) 2#2 (fun _ => rfl) fun _ => raiseError_seq ..

/-- The adapt step counts when it ends without anomaly, and then leaves the engine as it was. -/
theorem adaptBody_seq (s : State) :
    (adaptBody s).1.seq = s.seq ∨ ((adaptBody s).1.seq = s.seq + 1#64 ∧ (adaptBody s).1.st = s.st) :=
  endPass_ind (P := fun t => t.seq = s.seq ∨ (t.seq = s.seq + 1#64 ∧ t.st = s.st)) 3#2 (fun _ => .inr ⟨rfl, rfl⟩)
    fun _ => .inl (raiseError_seq ..)

theorem processBody_seq (ref : Bool) (s : State) :
    (processBody ref s).1.seq = s.seq ∨ ((processBody ref s).1.seq = s.seq + 1#64 ∧ (processBody ref s).1.st = s.st) := by
  rcases processBody_cases ref s with h | ⟨-, h⟩ | ⟨h1, h2, h⟩ <;> rw [h]
  · exact .inl (estimateBody_seq s)
  · exact .inl ((residualBody_seq ref _).trans (estimateBody_seq s))
  · have hseq := (residualBody_seq ref _).trans (estimateBody_seq s)
    have hst := (residualBody_true h2).trans (estimateBody_true h1).1
    have ha := adaptBody_seq (residualBody ref (estimateBody s).1).1
    rwa [hseq, hst] at ha

/-- What the body of a permitted command does to `SEQ`. -/
theorem longBody_seq {i : Instr} (hp : permitted i s = true) :
    (longBody i s).seq = s.seq ∨ (i = .configure ∧ (longBody i s).seq = 0#64) ∨
      ((i = .adapt ∨ ∃ ref, i = .process ref) ∧ (longBody i s).seq = s.seq + 1#64 ∧ (longBody i s).st = .ready) := by
  cases i with
  | configure => exact .inr (.inl ⟨rfl, rfl⟩)
  | estimate => exact .inl (estimateBody_seq s)
  | residual ref => exact .inl (residualBody_seq ref s)
  | adapt =>
    obtain ⟨hst, -⟩ : s.st = .ready ∧ s.eFresh = true := by simpa [permitted] using hp
    exact (adaptBody_seq s).imp_right fun ⟨h, hs⟩ => .inr ⟨.inl rfl, h, hs.trans hst⟩
  | process ref =>
    have hst : s.st = .ready := by simpa [permitted] using hp
    exact (processBody_seq ref s).imp_right fun ⟨h, hs⟩ => .inr ⟨.inr ⟨ref, rfl⟩, h, hs.trans hst⟩
  | resetw | nop | dispose | clrerr => exact .inl rfl

theorem Delivered.seq {i : Instr} (hd : Delivered i s t) : t.seq = s.seq := by
  cases hd with
  | refused => exact raiseError_seq ..
  | nop | dispose | clrerr | accepted => rfl

/-- Only a completion and reset change `SEQ`. -/
theorem Move.seq_or_complete {e : Option Event} (hm : Move e s t) (he : e ≠ some .reset) :
    t.seq = s.seq ∨
      ∃ i, s.busy = true ∧ decode s.pend = .ok i ∧ i.isLong = true ∧ t = completeCommand (longBody i s) := by
  cases hm with
  | wait | answer | config | interrupt | source | desired | coefficient => exact .inl rfl
  | illegal => exact .inl (raiseError_seq ..)
  | deliver _ hd => exact .inl hd.seq
  | complete hb hd hl => exact .inr ⟨_, hb, hd, hl, rfl⟩
  | reset => exact absurd rfl he

/-- Settles O59: a step that changes `SEQ` completes a command, which was permitted, and its body changes `SEQ` as R37 says. -/
theorem sequenceNumberCountsCycles : Obligations.SequenceNumberCountsCycles := by
  intro s t h ht hreset hne
  have he : s.inputs.head? ≠ some .reset := fun hh => by
    obtain ⟨rest, hr⟩ := List.head?_eq_some_iff.1 hh
    exact hreset rest hr
  rcases (step_move ht).seq_or_complete he with hs | ⟨i, hb, hd, -, rfl⟩
  · exact absurd hs hne
  · refine ⟨hb, rfl, ?_⟩
    have hp := ((h.withInputs s.inputs.tail).latch hb).of_decode hd
    rcases longBody_seq hp.1 with hs | ⟨rfl, hs⟩ | ⟨hi, hs, hst⟩
    · exact absurd hs hne
    · exact .inl ⟨hd, hs⟩
    · refine .inr ⟨?_, hs, hst⟩
      rcases hi with rfl | ⟨ref, rfl⟩
      · exact .inl hd
      · exact .inr ⟨ref, hd⟩

/-! ### The coefficients (R40) -/

/-- The estimate step reads the coefficients (R147). -/
theorem estimateBody_wmem (hL : 0 < s.lenL) : (estimateBody s).1.wmem = s.wmem := by
  have hw := (estPass_keeps s.num s.lenN hL s.xAt s.datapath).2
  exact endPass_ind (P := fun t => t.wmem = s.wmem) 1#2 (fun _ => hw) fun _ => (raiseError_wmem ..).trans hw

theorem residualBody_wmem (ref : Bool) (s : State) : (residualBody ref s).1.wmem = s.wmem := by
  have hw := (resPass_keeps s.num s.lenN (s.srcAt ref) s.datapath).2.1
  exact endPass_ind (P := fun t => t.wmem = s.wmem) 2#2 (fun _ => hw) fun _ => (raiseError_wmem ..).trans hw

/-- The bodies that may change a coefficient: the zero fills of R132 and R134, and the adapt step. -/
theorem longBody_wmem {i : Instr} (h : s.BodyInv) (hp : permitted i s = true) :
    (longBody i s).wmem = s.wmem ∨ i = .configure ∨ i = .resetw ∨ i = .adapt ∨ ∃ ref, i = .process ref := by
  cases i with
  | configure => exact .inr (.inl rfl)
  | resetw => exact .inr (.inr (.inl rfl))
  | estimate =>
    obtain ⟨-, -, hL, -⟩ := h.configured_of_ready (by simpa [permitted] using hp)
    exact .inl (estimateBody_wmem hL)
  | residual ref => exact .inl (residualBody_wmem ref s)
  | adapt => exact .inr (.inr (.inr (.inl rfl)))
  | process ref => exact .inr (.inr (.inr (.inr ⟨ref, rfl⟩)))
  | nop | dispose | clrerr => exact .inl rfl

theorem Delivered.wmem {i : Instr} (hd : Delivered i s t) : t.wmem = s.wmem ∨ i = .dispose := by
  cases hd with
  | refused => exact .inl (raiseError_wmem ..)
  | dispose => exact .inr rfl
  | nop | clrerr | accepted => exact .inl rfl

/-- The moves that may change a coefficient. -/
theorem Move.wmem {e : Option Event} (hm : Move e s t) (h : s.Inv) :
    t.wmem = s.wmem ∨ (∃ a v, e = some (.write a v) ∧ a.toNat / 65536 = 3) ∨
      (s.busy = true ∧ t.busy = false ∧ ∃ i, decode s.pend = .ok i ∧
        (i = .configure ∨ i = .resetw ∨ i = .adapt ∨ ∃ ref, i = .process ref)) ∨
      e = some (.write cmdOffset (encode .dispose)) ∨ e = some .reset := by
  cases hm with
  | wait | answer | config | interrupt | source | desired => exact .inl rfl
  | illegal => exact .inl (raiseError_wmem ..)
  | deliver _ hd => exact hd.wmem.imp_right fun hi => .inr (.inr (.inl (by rw [hi])))
  | coefficient hr => exact .inr (.inl ⟨_, _, rfl, quotient_of_wmem hr⟩)
  | complete hb hd =>
    exact (longBody_wmem h.body ((h.latch hb).of_decode hd).1).imp_right fun hi => .inr (.inl ⟨hb, rfl, _, hd, hi⟩)
  | reset => exact .inr (.inr (.inr (.inr rfl)))

/-- Settles O60: of the moves that may change a coefficient each is in the list. -/
theorem coefficientsHaveFewWriters : Obligations.CoefficientsHaveFewWriters := by
  intro s t h ht hne
  have listed {e : Event} (he : s.inputs.head? = some e) : ∃ rest, s.inputs = e :: rest := List.head?_eq_some_iff.1 he
  rcases (step_move ht).wmem (h.withInputs s.inputs.tail) with hw | ⟨a, v, he, ha⟩ | hc | he | he
  · exact absurd hw hne
  · obtain ⟨rest, hr⟩ := listed he
    exact .inl ⟨a, v, rest, hr, ha⟩
  · exact .inr (.inl hc)
  · exact .inr (.inr (.inl (listed he)))
  · exact .inr (.inr (.inr (listed he)))

end Sys2Proof.Machine
end

section
/-! PROOFS. O11, O12, O14 and O50: the registers as a host reads and writes them (R22 to R38). -/

namespace Sys2Proof.Machine

/-! ### The layout of STATUS (R30) -/

/-- The fields of a word built as R30 says. -/
theorem statusFields : ∀ (code : BitVec 2) (ref eFresh yFresh err busy : Bool),
    let w : BitVec 32 := 0#23 ++ BitVec.ofBool ref ++ BitVec.ofBool eFresh ++ BitVec.ofBool yFresh ++ BitVec.ofBool err
      ++ BitVec.ofBool busy ++ 0#2 ++ code
    w.extractLsb' 0 2 = code ∧ w.extractLsb' 2 2 = 0#2 ∧ w.getLsbD 4 = busy ∧ w.getLsbD 5 = err ∧ w.getLsbD 6 = yFresh
      ∧ w.getLsbD 7 = eFresh ∧ w.getLsbD 8 = ref ∧ w.extractLsb' 9 23 = 0#23 := by decide

/-- Settles O12: the fields are where R30 puts them, and the code of STATE is R30's. -/
theorem statusLayout : Obligations.StatusLayout := by
  intro s
  obtain ⟨hcode, hrest⟩ := statusFields s.st.code s.eRef s.eFresh s.yFresh s.err s.busy
  refine ⟨hcode.trans ?_, hrest⟩
  cases s.st <;> rfl

/-! ### Reads (R22) -/

/-- The offset `a` selects the register `r` (R22, R63). -/
structure AtCsr (a : Offset) (r : Csr) : Prop where
  aligned : aligned a = true
  region : regionOf a = .csr
  csr : csrOf a = some r

theorem hostRead_csr {a : Offset} {r : Csr} (h : AtCsr a r) (s : State) : hostRead a s = respond (.value (csrRead r s)) s := by
  have he : readError a s = none := by simp [readError, csrReadError, h.aligned, h.region, h.csr]
  have hv : readValue a s = csrRead r s := by simp [readValue, h.region, h.csr]
  simp only [hostRead, he, hv]

/-- The register map of R22. -/
def csrOffset : Csr → Offset
  | .id => 0x00000#20
  | .capN => 0x00004#20
  | .capL => 0x00008#20
  | .capFmt => 0x0000C#20
  | .cfgN => 0x00010#20
  | .cfgL => 0x00014#20
  | .cfgMuLo => 0x00018#20
  | .cfgMuHi => 0x0001C#20
  | .cmd => 0x00020#20
  | .status => 0x00024#20
  | .cause => 0x00028#20
  | .einfo => 0x0002C#20
  | .seqLo => 0x00030#20
  | .seqHi => 0x00034#20
  | .irqEn => 0x00038#20
  | .irqPend => 0x0003C#20

theorem atCsr_csrOffset (r : Csr) : AtCsr (csrOffset r) r := by
  cases r <;> exact ⟨by decide, by decide, by decide⟩

theorem halfOf_low (e : BitVec 64) : halfOf false e = e.setWidth 32 := by
  rw [halfOf, if_neg nofun, BitVec.setWidth_eq_extractLsb' (by decide)]

theorem halfOf_high (e : BitVec 64) : halfOf true e = (e >>> 32).setWidth 32 := by
  rw [halfOf, if_pos rfl]
  ext j hj
  simp [BitVec.getElem_setWidth]

/-- The table of R22 lists the registers at their offsets with the values they read as. -/
theorem csrTable_eq (s : State) : csrTable s =
    [Csr.id, .capN, .capL, .capFmt, .cfgN, .cfgL, .cfgMuLo, .cfgMuHi, .cmd, .status, .cause, .einfo, .seqLo, .seqHi, .irqEn,
      .irqPend].map fun r => (csrOffset r, csrRead r s) := by
  simp only [List.map, csrRead, halfOf_low, halfOf_high, csrTable]
  cases s.cause <;> rfl

/-- Settles O11: a read of an offset of the map answers the register's value. -/
theorem registerReads : Obligations.RegisterReads := by
  intro s rest p hp h
  rw [csrTable_eq] at hp
  obtain ⟨r, -, rfl⟩ := List.mem_map.1 hp
  rw [step_cons h]
  exact congrArg Host.Outcome.next (hostRead_csr (atCsr_csrOffset r) _)

/-! ### Writes (R23, R26 to R28, R38) -/

/-- A permitted write to a register other than `CMD`. -/
theorem step_csrWrite {s : State} {a : Offset} {v : Word} {rest : List Event} {r : Csr} (h : s.inputs = .write a v :: rest)
    (hr : AtCsr a r) (ha : a ≠ cmdOffset) (he : csrWriteError a { s with inputs := rest } = none) :
    step s = .next (respond .done (csrWrite r v { s with inputs := rest })) := by
  have hw : writeError a v { s with inputs := rest } = none := by simp [writeError, hr.aligned, hr.region, he]
  have hf : writeEffect a v { s with inputs := rest } = csrWrite r v { s with inputs := rest } := by
    simp [writeEffect, hr.region, hr.csr]
  rw [step_cons h]
  simp only [runEvent, hostWrite, hw, if_neg ha, hf]

/-- The configuration registers are open while no engine is constructed or being constructed (R66, R67). -/
theorem csrWriteError_config {s : State} {a : Offset} {r : Csr} (hr : csrOf a = some r) (hc : r.isConfig = true)
    (hst : s.st = .unconfigured) (hb : s.busy = false) : csrWriteError a s = none := by
  have hro : r.readOnly = false := by cases r <;> simp_all [Csr.readOnly, Csr.isConfig]
  simp [csrWriteError, hr, hro, hc, hb, hst]

theorem csrWriteError_interrupt (s : State) {a : Offset} {r : Csr} (hr : csrOf a = some r) (hi : r = .irqEn ∨ r = .irqPend) :
    csrWriteError a s = none := by
  rcases hi with rfl | rfl <;> simp [csrWriteError, hr, Csr.readOnly, Csr.isConfig]

/-- Write 1 to clear, bit by bit (R38). -/
theorem getLsbD_writeOneToClear (p : BitVec 2) (v : Word) {b : Nat} (hb : b < 2) :
    (p &&& ~~~(v.extractLsb' 0 2)).getLsbD b = (p.getLsbD b && !v.getLsbD b) := by
  simp [hb]

/-- Settles O14: each write is permitted, and its effect is the register's. -/
theorem registerWrites : Obligations.RegisterWrites := by
  intro s v rest
  have config {a : Offset} {r : Csr} (hr : AtCsr a r) (ha : a ≠ cmdOffset) (hc : r.isConfig = true)
      (hst : s.st = .unconfigured) (hb : s.busy = false) (h : s.inputs = .write a v :: rest) :
      step s = .next (respond .done (csrWrite r v { s with inputs := rest })) :=
    step_csrWrite h hr ha (csrWriteError_config hr.csr hc hst hb)
  have interrupt {a : Offset} {r : Csr} (hr : AtCsr a r) (ha : a ≠ cmdOffset) (hi : r = .irqEn ∨ r = .irqPend)
      (h : s.inputs = .write a v :: rest) :
      step s = .next (respond .done (csrWrite r v { s with inputs := rest })) :=
    step_csrWrite h hr ha (csrWriteError_interrupt _ hr.csr hi)
  refine ⟨fun hst hb => ⟨?_, ?_, ?_, ?_⟩, fun h => ?_, fun h => ?_⟩
  · exact config (atCsr_csrOffset .cfgN) (by decide) rfl hst hb
  · exact config (atCsr_csrOffset .cfgL) (by decide) rfl hst hb
  · exact config (atCsr_csrOffset .cfgMuLo) (by decide) rfl hst hb
  · exact config (atCsr_csrOffset .cfgMuHi) (by decide) rfl hst hb
  · rw [BitVec.setWidth_eq_extractLsb' (by decide)]
    exact interrupt (atCsr_csrOffset .irqEn) (by decide) (.inl rfl) h
  · exact ⟨_, interrupt (atCsr_csrOffset .irqPend) (by decide) (.inr rfl) h, rfl, fun b hb => getLsbD_writeOneToClear _ _ hb⟩

/-! ### After reset (R48) -/

/-- Settles O50: every register of `State.reset` has its reset value. -/
theorem resetValues : Obligations.ResetValues := ⟨by decide, rfl⟩

end Sys2Proof.Machine
end

section
/-! PROOFS. O5, O8, O9 and O10: a write to CMD (R66, R130), and which accesses the port answers ERR (R60 to R72, R82). -/

namespace Sys2Proof.Machine

/-! ### A write to CMD (R66, R130) -/

theorem hostWrite_cmd_busy {s : State} (hb : s.busy = true) (c : Word) :
    hostWrite cmdOffset c s = .next (respond .err s) := by
  simp [hostWrite, writeError_cmd, hb]

theorem hostWrite_cmd_idle {s : State} (hb : s.busy = false) (c : Word) :
    hostWrite cmdOffset c s = dispatch c (respond .done s) := by
  simp [hostWrite, writeError_cmd, hb]

theorem dispatch_legal {c : Word} {i : Instr} (hd : decode c = .ok i) (s : State) : dispatch c s = exec i s := by
  simp only [dispatch, hd]

/-- Settles O5: an idle port dispatches the word, and a legal word runs its command. -/
theorem stepRunsDeliveredCommand : Obligations.StepRunsDeliveredCommand := fun s c rest _ h hb hd =>
  (step_cons h).trans ((hostWrite_cmd_idle (s := { s with inputs := rest }) hb c).trans (dispatch_legal hd _))

/-- Settles O10: a busy port answers ERR to every word. -/
theorem busyCommandIsDropped : Obligations.BusyCommandIsDropped := fun s c rest h hb =>
  (step_cons h).trans (hostWrite_cmd_busy (s := { s with inputs := rest }) hb c)

/-! ### The answer of a write (R60) -/

theorem Delivered.resps {i : Instr} {s t : State} (hd : Delivered i s t) : t.resps = s.resps := by
  cases hd with
  | refused m => exact raiseError_resps _ _ _
  | nop | dispose | clrerr | accepted => rfl

theorem writeEffect_resps (a : Offset) (v : Word) (s : State) : (writeEffect a v s).resps = s.resps := by
  unfold writeEffect
  split
  case h_1 =>
    split
    · next r _ => cases r <;> rfl
    · rfl
  all_goals rfl

/-- A write is refused and changes nothing but the answers, or it is answered OK. -/
theorem hostWrite_answer {a : Offset} {v : Word} {s t : State} (h : hostWrite a v s = .next t) :
    (writeError a v s ≠ none ∧ t = respond .err s) ∨ (writeError a v s = none ∧ t.resps = .done :: s.resps) := by
  have idle (hb : s.busy = false) : writeError cmdOffset v s = none := by simp [writeError_cmd, hb]
  rcases hostWrite_cases a v s with ⟨he, h1⟩ | ⟨rfl, hb, -, h1⟩ | ⟨i, rfl, hb, -, h1⟩ | ⟨-, he, h1⟩ <;> rw [h1] at h
  · cases h; exact .inl ⟨he, rfl⟩
  · cases h; exact .inr ⟨idle hb, raiseError_resps _ _ _⟩
  · exact .inr ⟨idle hb, (exec_delivered (s := respond .done s) hb h).resps⟩
  · cases h; exact .inr ⟨he, congrArg _ (writeEffect_resps a v s)⟩

/-- Settles O9: every other write is answered OK. -/
theorem refusedWriteChangesNothing : Obligations.RefusedWriteChangesNothing := by
  intro s t a v rest h ht hr
  rw [step_cons h] at ht
  rcases hostWrite_answer ht with ⟨-, rfl⟩ | ⟨-, hd⟩
  · rfl
  · rw [hd] at hr; cases hr

/-! ### The checks of R82 on the offset as a number -/

/-- The quotient of an offset by the size of a region, all reserved regions taken as one, is its region's (R62). -/
theorem quotient_eq (a : Offset) : min (a.toNat / 65536) 8 = regionBase (regionOf a) / 65536 := by
  rw [regionOf_eq]
  generalize a.toNat / 65536 = q
  match q with
  | 0 | 1 | 2 | 3 | 4 | 5 | 6 | 7 => rfl
  | q + 8 => simp [regionBase]

/-- A register has one offset (R22, R63). -/
theorem eq_csrOffset {a : Offset} {r : Csr} (hreg : regionOf a = .csr) (h : csrOf a = some r) : a = csrOffset r := by
  have hlow : (a.extractLsb' 0 16).toNat = (csrOffset r).toNat := by
    unfold csrOf at h
    split at h <;> cases h <;> (rename_i h0; exact h0)
  have hhigh := quotient_of_csr hreg
  rw [BitVec.extractLsb'_toNat, Nat.shiftRight_zero] at hlow
  exact BitVec.eq_of_toNat_eq (by omega)

theorem csrOf_isSome_of_lt : ∀ n < 64, n % 4 = 0 → (csrOf (BitVec.ofNat 20 n)).isSome = true := by decide

theorem regionIndexOk_iff (a : Offset) (s : State) : regionIndexOk (regionOf a) a s = true ↔ ¬ pastDepth a.toNat s := by
  have hq := quotient_eq a
  cases hr : regionOf a <;> rw [hr] at hq <;> simp only [regionBase] at hq <;>
    simp [regionIndexOk, pastDepth, sampleIndex_eq, numIndex_eq] <;> omega

theorem bufferError_eq_none_iff (a : Offset) (s : State) :
    bufferError a s = none ↔ s.st ≠ .unconfigured ∧ s.busy = false ∧ ¬ pastDepth a.toNat s := by
  rw [← regionIndexOk_iff]
  refine ⟨bufferError_none, fun ⟨hst, hb, hi⟩ => ?_⟩
  simp [bufferError, hst, hb, hi]

/-- R10: the sign extensions of samples are the words from −32768 to 32767. -/
theorem isSext16_iff (v : Word) : isSext16 v = true ↔ -32768 ≤ v.toInt ∧ v.toInt ≤ 32767 := by
  have h : (sext32 (asI16 v)).toInt = Int.bmod v.toInt (2 ^ 16) := by
    rw [sext32, asI16, BitVec.toInt_signExtend_of_le (by decide), BitVec.toInt_setWidth, BitVec.toInt_eq_toNat_bmod v,
      Int.bmod_bmod_of_dvd (by decide)]
  rw [isSext16, decide_eq_true_iff, ← BitVec.toInt_inj, h]
  constructor
  · intro he
    have h1 := Int.le_bmod (x := v.toInt) (m := 2 ^ 16) (by decide)
    have h2 := Int.bmod_lt (x := v.toInt) (m := 2 ^ 16) (by decide)
    omega
  · intro ⟨h1, h2⟩
    exact (Int.bmod_eq_of_le (by omega) (by omega)).symm

/-- Where an offset leads, by the checks of R82 and as a number. -/
inductive Place (a : Offset) : Prop
  | misaligned : aligned a = false → a.toNat % 4 ≠ 0 → Place a
  | reserved : aligned a = true → a.toNat % 4 = 0 → regionOf a = .reserved → 8 ≤ a.toNat / 65536 → Place a
  | noRegister : aligned a = true → a.toNat % 4 = 0 → regionOf a = .csr → csrOf a = none → a.toNat / 65536 = 0 →
      64 ≤ a.toNat → Place a
  | register (r : Csr) : a = csrOffset r → Place a
  | buffer : aligned a = true → a.toNat % 4 = 0 → regionOf a ≠ .csr → regionOf a ≠ .reserved →
      a.toNat / 65536 = regionBase (regionOf a) / 65536 → 1 ≤ a.toNat / 65536 → a.toNat / 65536 < 8 → Place a

theorem place_total (a : Offset) : Place a := by
  have hq := quotient_eq a
  have h4 := aligned_eq a
  cases ha : aligned a <;> rw [ha] at h4
  case false => exact .misaligned ha (by simpa using h4)
  replace h4 : a.toNat % 4 = 0 := by simpa using h4
  cases hr : regionOf a <;> rw [hr] at hq <;> simp only [regionBase] at hq
  case csr =>
    cases hc : csrOf a with
    | none =>
      refine .noRegister ha h4 hr hc (by omega) ?_
      by_contra hlt
      simpa [hc] using csrOf_isSome_of_lt a.toNat (by omega) h4
    | some r => exact .register r (eq_csrOffset hr hc)
  case reserved => exact .reserved ha h4 hr (by omega)
  all_goals
    have hbase : a.toNat / 65536 = regionBase (regionOf a) / 65536 := by rw [hr]; simp only [regionBase]; omega
    exact .buffer ha h4 (by simp [hr]) (by simp [hr]) hbase (by omega) (by omega)

/-! #### A buffer -/

section
variable {a : Offset} (ha : aligned a = true) (hcsr : regionOf a ≠ .csr) (hres : regionOf a ≠ .reserved)
include ha hcsr hres

theorem readError_buffer (s : State) : readError a s = bufferError a s := by
  cases hr : regionOf a <;> simp [readError, ha, hr] at hcsr hres ⊢

theorem writeError_buffer (v : Word) (s : State) : writeError a v s = none ↔ bufferError a s = none ∧
    (regionOf a).readOnly = false ∧ (regionOf a = .xbuf ∨ regionOf a = .dbuf → isSext16 v = true) := by
  cases hb : bufferError a s <;> cases hr : regionOf a <;>
    simp [writeError, Region.readOnly, ha, hr, hb] at hcsr hres ⊢

end

/-! #### A register -/

theorem csrWriteError_eq_none_iff {a : Offset} {r : Csr} (hr : csrOf a = some r) (s : State) :
    csrWriteError a s = none ↔ r.readOnly = false ∧ (r.isConfig = true ∨ r = .cmd → s.busy = false) ∧
      (r.isConfig = true → s.st = .unconfigured) := by
  simp only [csrWriteError, hr]
  split_ifs <;> simp_all

theorem not_readRefused_csrOffset (r : Csr) (s : State) : ¬ readRefused (csrOffset r).toNat s := by
  cases r <;> simp [readRefused, csrOffset]

/-! #### Any offset -/

/-- The checks of a read refuse what `readRefused` says (R82). -/
theorem readError_eq_none_iff (a : Offset) (s : State) : readError a s = none ↔ ¬ readRefused a.toNat s := by
  cases place_total a with
  | misaligned ha h4 => simp [readError, readRefused, ha, h4]
  | reserved ha h4 hr h8 => simp [readError, readRefused, ha, hr, h8]
  | noRegister ha h4 hr hc h0 h64 => simp [readError, readRefused, csrReadError, ha, hr, hc, h0, h64]
  | register r h =>
    subst h
    obtain ⟨ha, hr, hc⟩ := atCsr_csrOffset r
    simp [readError, csrReadError, ha, hr, hc, not_readRefused_csrOffset]
  | buffer ha h4 hcsr hres _ h1 h8 =>
    have h0 : a.toNat / 65536 ≠ 0 := by omega
    rw [readError_buffer ha hcsr hres, bufferError_eq_none_iff]
    simp [readRefused, h4, h0, h1, h8]

/-- The checks of a write refuse what `writeRefused` says (R82). -/
theorem writeError_eq_none_iff (a : Offset) (v : Word) (s : State) :
    writeError a v s = none ↔ ¬ writeRefused a.toNat v s := by
  cases place_total a with
  | misaligned ha h4 => simp [writeError, writeRefused, readRefused, ha, h4]
  | reserved ha h4 hr h8 => simp [writeError, writeRefused, readRefused, ha, hr, h8]
  | noRegister ha h4 hr hc h0 h64 => simp [writeError, writeRefused, readRefused, csrWriteError, ha, hr, hc, h0, h64]
  | register r h =>
    subst h
    obtain ⟨ha, hr, hc⟩ := atCsr_csrOffset r
    have hw : writeError (csrOffset r) v s = csrWriteError (csrOffset r) s := by simp [writeError, ha, hr]
    rw [hw, csrWriteError_eq_none_iff hc, writeRefused, not_or]
    simp only [not_readRefused_csrOffset, not_false_eq_true, true_and]
    cases r <;> simp [Csr.readOnly, Csr.isConfig, csrOffset]
  | buffer ha h4 hcsr hres hq h1 h8 =>
    have hlow (n : Nat) (hn : n < 64) : a.toNat ≠ n := by omega
    rw [writeError_buffer ha hcsr hres, ← readError_buffer ha hcsr hres, readError_eq_none_iff, isSext16_iff, writeRefused,
      not_or, hq]
    refine and_congr_right fun _ => ?_
    cases hr : regionOf a <;> simp [hr] at hcsr hres <;> simp [regionBase, Region.readOnly, hlow]

/-- Settles O8: an access is answered ERR exactly when one of its checks refuses it. -/
theorem portRefusesExactly : Obligations.PortRefusesExactly := by
  intro s a rest
  refine ⟨fun h => ?_, fun v h => ?_⟩
  · have hr := readError_eq_none_iff a { s with inputs := rest }
    rw [step_cons h]
    rcases hostRead_cases a { s with inputs := rest } with ⟨he, h1⟩ | ⟨he, h1⟩
    · exact ⟨.err, congrArg _ h1, fun _ => not_not.1 fun hn => he (hr.2 hn), fun _ => rfl⟩
    · exact ⟨_, congrArg _ h1, nofun, fun hn => absurd hn (hr.1 he)⟩
  · have hw := writeError_eq_none_iff a v { s with inputs := rest }
    obtain ⟨t, ht⟩ := hostWrite_next a v { s with inputs := rest }
    refine ⟨t, (step_cons h).trans ht, ?_⟩
    rcases hostWrite_answer ht with ⟨he, rfl⟩ | ⟨he, hd⟩
    · have hn : writeRefused a.toNat v s := not_not.1 fun hn => he (hw.2 hn)
      simp [hn]
    · have hn : ¬ writeRefused a.toNat v s := hw.1 he
      simp [hd, hn]

end Sys2Proof.Machine
end

section
/-! PROOFS. O13, O15 and O16: what a permitted read of a buffer element returns and what a permitted write stores
(R68 to R74). -/

namespace Sys2Proof.Machine

/-! ### The elements of the buffers (R62, R68 to R70) -/

/-- The implemented depth of a region (R39 to R41). -/
def Region.depth (r : Region) (s : State) : Nat :=
  match r with
  | .xbuf | .dbuf | .obuf | .ybuf | .ebuf => s.nmax
  | .wmem | .tdl => s.lmax
  | .csr | .reserved => 0

/-- The element index an offset selects in a region (R68, R69). -/
def Region.index (r : Region) (a : Offset) : Nat :=
  match r with
  | .wmem | .ybuf | .ebuf => numIndex a
  | .xbuf | .dbuf | .obuf | .tdl | .csr | .reserved => sampleIndex a

/-- The offset `a` lies at element `i` of region `r`. -/
structure AtElement (a : Offset) (r : Region) (i : Nat) : Prop where
  aligned : aligned a = true
  region : regionOf a = r
  index : r.index a = i

theorem regionIndexOk_of_depth {a : Offset} {r : Region} {s : State} (h : r.index a < r.depth s) :
    regionIndexOk r a s = true := by
  revert h
  cases r <;> simp [regionIndexOk, Region.index, Region.depth]

/-- A constructed engine that is idle opens each element within the depth (R65, R66, R70). -/
theorem AtElement.bufferError {a : Offset} {r : Region} {i : Nat} {s : State} (h : AtElement a r i)
    (hst : s.st ≠ .unconfigured) (hb : s.busy = false) (hi : i < r.depth s) : bufferError a s = none := by
  have hok : regionIndexOk (regionOf a) a s = true := by
    rw [h.region]
    exact regionIndexOk_of_depth (h.index ▸ hi)
  simp [Machine.bufferError, hst, hb, hok]

/-- Only a buffer has elements. -/
theorem isBuffer_of_lt_depth {r : Region} {i : Nat} {s : State} (hi : i < r.depth s) : r ≠ .csr ∧ r ≠ .reserved := by
  constructor <;> rintro rfl <;> exact absurd hi (Nat.not_lt_zero i)

/-- A write to an element within the depth, of a sample where samples are held, is permitted. -/
theorem AtElement.step_write {s : State} {a : Offset} {v : Word} {r : Region} {i : Nat} {rest : List Event}
    (h : AtElement a r i) (hst : s.st ≠ .unconfigured) (hb : s.busy = false) (hi : i < r.depth s)
    (hro : r.readOnly = false) (hv : r = .xbuf ∨ r = .dbuf → isSext16 v = true) (hin : s.inputs = .write a v :: rest) :
    step s = .next (respond .done (writeEffect a v { s with inputs := rest })) := by
  obtain ⟨hcsr, hres⟩ := isBuffer_of_lt_depth hi
  have hc : a ≠ cmdOffset := by
    rintro rfl
    exact hcsr (h.region.symm.trans cmdOffset_facts.2.1)
  have he : writeError a v { s with inputs := rest } = none := by
    rw [writeError_buffer h.aligned (h.region ▸ hcsr) (h.region ▸ hres), h.region]
    exact ⟨h.bufferError hst hb hi, hro, hv⟩
  rw [step_cons hin]
  simp only [runEvent, hostWrite, he, if_neg hc]

/-! #### The offsets of the elements (R100) -/

theorem regionOf_regionBase_add (r : Region) {a : Offset} {k : Nat} (ha : a.toNat = regionBase r + k) (hk : k < 65536) :
    regionOf a = r := by
  have hq : a.toNat / 65536 = regionBase r / 65536 := by cases r <;> simp only [regionBase] at ha ⊢ <;> omega
  rw [regionOf_eq, hq]
  cases r <;> rfl

theorem sampleAddr_toNat (r : Region) {i : Nat} (hi : i < 16384) : (sampleAddr r i).toNat = regionBase r + 4 * i := by
  rw [sampleAddr, BitVec.toNat_ofNat]
  cases r <;> simp only [regionBase] <;> omega

theorem numAddr_toNat (r : Region) {i : Nat} (hi : i < 8192) (h : Bool) :
    (numAddr r i h).toNat = regionBase r + 8 * i + if h then 4 else 0 := by
  rw [numAddr, BitVec.toNat_ofNat]
  cases r <;> cases h <;> simp [regionBase] <;> omega

theorem regionBase_mod (r : Region) : regionBase r % 65536 = 0 := by cases r <;> rfl

theorem atElement_sampleAddr {r : Region} {i : Nat} (hr : r.index = sampleIndex) (hi : i < 16384) :
    AtElement (sampleAddr r i) r i := by
  have ha := sampleAddr_toNat r hi
  have hm := regionBase_mod r
  refine ⟨?_, regionOf_regionBase_add r ha (by omega), ?_⟩
  · rw [aligned_eq, decide_eq_true_iff]; omega
  · rw [hr, sampleIndex_eq]; omega

theorem atElement_numAddr {r : Region} {i : Nat} (hr : r.index = numIndex) (hi : i < 8192) (h : Bool) :
    AtElement (numAddr r i h) r i := by
  have ha := numAddr_toNat r hi h
  have hm := regionBase_mod r
  have h4 : (if h then 4 else 0) = 0 ∨ (if h then 4 else 0) = 4 := by cases h <;> simp
  refine ⟨?_, regionOf_regionBase_add r (ha.trans (Nat.add_assoc _ _ _)) (by omega), ?_⟩
  · rw [aligned_eq, decide_eq_true_iff]; omega
  · rw [hr, numIndex_eq]; omega

theorem halfSelect_numAddr (r : Region) {i : Nat} (hi : i < 8192) (h : Bool) : halfSelect (numAddr r i h) = h := by
  have hm := regionBase_mod r
  rw [halfSelect_eq, numAddr_toNat r hi h]
  cases h <;> simp <;> omega

/-- The half `h` as a number (R69). -/
theorem ofNat_eq_numAddr (r : Region) (i : Nat) {h : Nat} (hh : h < 2) :
    BitVec.ofNat 20 (regionBase r + 8 * i + 4 * h) = numAddr r i (decide (h = 1)) := by
  obtain rfl | rfl : h = 0 ∨ h = 1 := by omega
  all_goals rfl

theorem halfOf_decide (e : BitVec 64) {h : Nat} (hh : h < 2) : halfOf (decide (h = 1)) e = e.extractLsb' (32 * h) 32 := by
  obtain rfl | rfl : h = 0 ∨ h = 1 := by omega
  all_goals rfl

/-! ### Reads (R68, R69) -/

/-- What a read of element `i`, of its half `h`, returns. -/
def Region.elementWord (r : Region) (s : State) (i : Nat) (h : Bool) : Word :=
  match r with
  | .xbuf => sext32 (s.xAt i)
  | .dbuf => sext32 (s.dAt i)
  | .obuf => sext32 (s.oAt i)
  | .tdl => sext32 (s.tAt i)
  | .wmem => halfOf h (s.format.enc (s.wAt i))
  | .ybuf => halfOf h (s.format.enc (s.yAt i))
  | .ebuf => halfOf h (s.format.enc (s.eAt i))
  | .csr | .reserved => 0#32

theorem AtElement.readValue {a : Offset} {r : Region} {i : Nat} {s : State} (h : AtElement a r i)
    (hi : i < r.depth s) : readValue a s = r.elementWord s i (halfSelect a) := by
  obtain ⟨hcsr, hres⟩ := isBuffer_of_lt_depth hi
  rw [← h.index]
  cases r <;> simp [Machine.readValue, Region.elementWord, Region.index, h.region] at hcsr hres ⊢

/-- A read of an element within the depth answers its word. -/
theorem AtElement.step_read {s : State} {a : Offset} {r : Region} {i : Nat} {rest : List Event} (h : AtElement a r i)
    (hst : s.st ≠ .unconfigured) (hb : s.busy = false) (hi : i < r.depth s) (hin : s.inputs = .read a :: rest) :
    step s = .next { s with inputs := rest, resps := .value (r.elementWord s i (halfSelect a)) :: s.resps } := by
  obtain ⟨hcsr, hres⟩ := isBuffer_of_lt_depth hi
  have he : readError a { s with inputs := rest } = none :=
    (readError_buffer h.aligned (h.region ▸ hcsr) (h.region ▸ hres) _).trans (h.bufferError hst hb hi)
  rw [step_cons hin, ← h.readValue hi]
  simp only [runEvent, hostRead, he]
  rfl

/-- Settles O13: every element within the depth is open, and its offset selects it and its half. -/
theorem bufferReads : Obligations.BufferReads := by
  intro s rest i hst hb
  have number {r : Region} {h : Nat} (hr : r.index = numIndex) (hi : i < 8192) (hh : h < 2) (hd : i < r.depth s)
      (hin : s.inputs = .read (BitVec.ofNat 20 (regionBase r + 8 * i + 4 * h)) :: rest) :
      step s = .next
        { s with inputs := rest, resps := .value (r.elementWord s i (decide (h = 1))) :: s.resps } := by
    rw [ofNat_eq_numAddr r i hh] at hin
    exact halfSelect_numAddr r hi (decide (h = 1)) ▸ (atElement_numAddr hr hi _).step_read hst hb hd hin
  refine ⟨fun hi hd => ⟨?_, ?_, ?_⟩, fun hi hd => ?_, fun h hh => ⟨fun hi hd => ?_, fun hi hd => ⟨?_, ?_⟩⟩⟩
  · exact (atElement_sampleAddr (r := .xbuf) rfl hi).step_read hst hb hd
  · exact (atElement_sampleAddr (r := .dbuf) rfl hi).step_read hst hb hd
  · exact (atElement_sampleAddr (r := .obuf) rfl hi).step_read hst hb hd
  · exact (atElement_sampleAddr (r := .tdl) rfl hi).step_read hst hb hd
  · exact halfOf_decide _ hh ▸ number (r := .wmem) rfl hi hh hd
  · exact halfOf_decide _ hh ▸ number (r := .ybuf) rfl hi hh hd
  · exact halfOf_decide _ hh ▸ number (r := .ebuf) rfl hi hh hd

/-! ### Writes (R72 to R74) -/

theorem AtElement.writeEffect_xbuf {a : Offset} {i : Nat} (h : AtElement a .xbuf i) (v : Word) (s : State) :
    writeEffect a v s = clearFresh { s with xbuf := bufSet 0#16 s.xbuf i (asI16 v) } := by
  simp only [writeEffect, h.region, ← h.index, Region.index]

theorem AtElement.writeEffect_dbuf {a : Offset} {i : Nat} (h : AtElement a .dbuf i) (v : Word) (s : State) :
    writeEffect a v s = { s with dbuf := bufSet 0#16 s.dbuf i (asI16 v), eFresh := false } := by
  simp only [writeEffect, h.region, ← h.index, Region.index]

theorem AtElement.writeEffect_wmem {a : Offset} {i : Nat} (h : AtElement a .wmem i) (v : Word) (s : State) :
    writeEffect a v s = clearFresh { s with
      wmem := bufSet s.zero s.wmem i (s.format.dec (withHalf (halfSelect a) (s.format.enc (s.wAt i)) v)) } := by
  simp only [writeEffect, writeWmem, h.region, ← h.index, Region.index]

theorem asI16_signExtend (v : Sample) : asI16 (v.signExtend 32) = v := by
  ext j hj
  simp [asI16, BitVec.getElem_signExtend, hj, show j < 32 by omega]

theorem isSext16_signExtend (v : Sample) : isSext16 (v.signExtend 32) = true := by
  rw [isSext16, asI16_signExtend, decide_eq_true_iff]
  rfl

/-- Settles O15: the write is permitted, and it stores the sample in its element alone (R73). -/
theorem sampleWrites : Obligations.SampleWrites := by
  intro s rest i v hst hb hi hd
  have write {r : Region} (hr : r.index = sampleIndex) (hro : r.readOnly = false) (hd : i < r.depth s)
      (hin : s.inputs = .write (sampleAddr r i) (v.signExtend 32) :: rest) :
      step s = .next (respond .done (writeEffect (sampleAddr r i) (v.signExtend 32) { s with inputs := rest })) :=
    (atElement_sampleAddr hr hi).step_write hst hb hd hro (fun _ => isSext16_signExtend v) hin
  refine ⟨fun hin => ⟨_, write (r := .xbuf) rfl rfl hd hin, ?_⟩, fun hin => ⟨_, write (r := .dbuf) rfl rfl hd hin, ?_⟩⟩
  · rw [(atElement_sampleAddr rfl hi).writeEffect_xbuf, asI16_signExtend]
    exact ⟨bufGet_bufSet _ _ _ _, rfl⟩
  · rw [(atElement_sampleAddr rfl hi).writeEffect_dbuf, asI16_signExtend]
    exact ⟨bufGet_bufSet _ _ _ _, rfl⟩

theorem halfOf_withHalf (h : Bool) (e : BitVec 64) (v : Word) : halfOf h (withHalf h e v) = v := by
  cases h
  · exact BitVec.extractLsb'_append_eq_right
  · exact BitVec.extractLsb'_append_eq_left

theorem halfOf_withHalf_not (h : Bool) (e : BitVec 64) (v : Word) : halfOf (!h) (withHalf h e v) = halfOf (!h) e := by
  cases h
  · exact BitVec.extractLsb'_append_eq_left
  · exact BitVec.extractLsb'_append_eq_right

/-- A half written back as it reads changes nothing. -/
theorem withHalf_halfOf (h : Bool) (e : BitVec 64) : withHalf h e (halfOf h e) = e := by
  cases h <;> exact BitVec.extractLsb'_append_extractLsb'

theorem halfOf_decide_not (e : BitVec 64) {h : Nat} (hh : h < 2) :
    halfOf (!decide (h = 1)) e = e.extractLsb' (32 * (1 - h)) 32 := by
  obtain rfl | rfl : h = 0 ∨ h = 1 := by omega
  all_goals rfl

/-- Settles O16: the write is permitted, and it stores what the encoding with the half replaced decodes to (R74). -/
theorem coefficientHalfWrites : Obligations.CoefficientHalfWrites := by
  intro s rest i h v hst hb hi hd hh hin
  have haddr : BitVec.ofNat 20 (0x30000 + 8 * i + 4 * h) = numAddr .wmem i (decide (h = 1)) :=
    ofNat_eq_numAddr .wmem i hh
  rw [haddr] at hin
  have ha : AtElement (numAddr .wmem i (decide (h = 1))) .wmem i := atElement_numAddr rfl hi _
  have hstep := ha.step_write hst hb hd rfl nofun hin
  rw [ha.writeEffect_wmem, halfSelect_numAddr _ hi] at hstep
  have hread (j : Nat) :=
    bufGet_bufSet s.zero s.wmem i (s.format.dec (withHalf (decide (h = 1)) (s.format.enc (s.wAt i)) v)) j
  have hat := (hread i).trans (if_pos rfl)
  refine ⟨_, hstep, fun j hj => (hread j).trans (if_neg hj), ⟨_, hat, ?_, ?_, fun hE => ?_⟩, fun hval hv => ?_, rfl⟩
  · rw [← halfOf_decide _ hh, halfOf_withHalf]
  · rw [← halfOf_decide_not _ hh, halfOf_withHalf_not, halfOf_decide_not _ hh]
  · exact (congrArg s.format.enc hat).trans hE
  · have hsame : s.format.dec (withHalf (decide (h = 1)) (s.format.enc (s.wAt i)) v) = s.wAt i := by
      rw [hv, ← halfOf_decide _ hh, withHalf_halfOf, hval]
    exact hat.trans hsame

end Sys2Proof.Machine
end

section
/-! PROOFS. O1, O2 and O3: the decoder against the opcode map (R92, R94, R95). -/

namespace Sys2Proof.Machine

/-- Each command is named by one word, its own (R92, R95). -/
theorem decode_eq_ok_iff {c : Word} {i : Instr} : decode c = .ok i ↔ c = encode i :=
  ⟨fun h => (encode_of_decode h).symm, fun h => h ▸ decode_encode i⟩

theorem word_of_mem_commandTable : ∀ row ∈ commandTable, row.1 = encode row.2.1 := by decide

theorem encode_mem_commandTable (i : Instr) : (encode i, i, i.isLong) ∈ commandTable := by
  cases i with
  | residual ref => cases ref <;> decide
  | process ref => cases ref <;> decide
  | nop | configure | dispose | resetw | estimate | adapt | clrerr => decide

theorem mem_commandTable_iff {c : Word} {i : Instr} : (c, i, i.isLong) ∈ commandTable ↔ c = encode i :=
  ⟨word_of_mem_commandTable _, fun h => h ▸ encode_mem_commandTable i⟩

/-- Settles O3: both sides say that the word is the command's own. -/
theorem commandTableIsExact : Obligations.CommandTableIsExact := fun _ _ =>
  decode_eq_ok_iff.trans mem_commandTable_iff.symm

/-- Settles O2: every command decodes from its word, with either value of `REF`. -/
theorem decodeOfEncodedCommand : Obligations.DecodeOfEncodedCommand := fun i _ => decode_encode i

/-- Settles O1: nine words of commands, and one word for each condition of R94. -/
theorem specWordsDecode : Obligations.SpecWordsDecode :=
  ⟨decode_nop, decode_configure, decode_dispose, decode_resetw, decode_estimate, decode_residual_d, decode_adapt,
    decode_process_x, decode_clrerr, by decide, by decide, by decide⟩

end Sys2Proof.Machine
end

section
/-! PROOFS. O27: RESIDUAL without anomaly (R155, R156). -/

namespace Sys2Proof.Machine

/-- A pass that no anomaly ended is followed by its `done` (R188). -/
theorem endPass_completes (stage : BitVec 2) (done : State → State) (s : State) {r : Datapath NumCode × Option Anomaly}
    (h : r.2 = none) : endPass stage done s r = (done (s.withDatapath r.1), true) := by
  simp only [endPass, h]

/-- No anomaly ends the residual step when every difference is finite (R159). -/
theorem resPass_completes {α : Type} [DecidableEq α] {F : NumOps α} {N : Nat} {src : Nat → Sample} {d : Datapath α}
    (h : ∀ n < N, F.finite (residualAt F src (bufGet F.zero d.ybuf) n) = true) : (resPass F N src d).2 = none := by
  cases hr : (resPass F N src d).2 with
  | none => rfl
  | some e =>
    obtain ⟨-, hn, -, -, hnot⟩ := (resPass_spec F N src d).2 e hr
    rw [h e.n hn] at hnot
    cases hnot

/-- What a pass changes of the state when it keeps the line, the coefficients and the estimate. -/
theorem withDatapath_of_kept {s : State} {d : Datapath NumCode} (ht : d.tdl = s.tdl) (hw : d.wmem = s.wmem)
    (hy : d.ybuf = s.ybuf) : s.withDatapath d =
      { s with acc := d.acc, g := d.g, ebuf := d.ebuf, obuf := d.obuf, seqr := d.seqr, freeCount := s.freeCount + 1 } := by
  rw [State.withDatapath, ht, hw, hy]

/-- Settles O27: the residual step runs to its end, over `EBUF` and `OBUF` alone. -/
theorem residualComputesError : Obligations.ResidualComputesError := by
  intro ref s hb hfin
  rw [← srcAt_eq] at hfin ⊢
  have hr : (resPass s.num s.lenN (s.srcAt ref) s.datapath).2 = none := resPass_completes hfin
  obtain ⟨hres, -⟩ := (resPass_spec s.num s.lenN (s.srcAt ref) s.datapath).1 hr
  refine ⟨_, exec_residual_busy hb, ?_⟩
  rw [residualBody, endPass_completes _ _ _ hr]
  refine ⟨hres.ebuf, hres.obuf, ?_⟩
  rw [withDatapath_of_kept hres.tdl hres.wmem hres.ybuf]
  rfl

end Sys2Proof.Machine
end

section
/-! PROOFS. O45 and O46: the conversion of a sample and the quantiser (R112, R120), both exact but for the rounding that
`b64Nearest` names. -/

namespace Sys2Proof.Machine

/-- What zero rounds to. -/
theorem b64Round_zero (sign : Bool) (j : Nat) : b64Round sign 0 j = b64Zero sign := by
  have hr : roundHalfEven 0 j = 0 := by simpa using roundHalfEven_mul 0 j
  cases sign <;> simp [b64Round, hr, b64Zero]

theorem b64Cvt_zero : b64Cvt 0#16 = 0#64 := by
  rw [b64Cvt, BitVec.toInt_zero, Int.natAbs_zero, Nat.zero_mul, b64Round_zero]
  rfl

/-- Settles O45: the 16 bits of a sample fit the significand, so the rounding changes nothing. -/
theorem conversionIsExact : Obligations.ConversionIsExact := fun s =>
  ⟨(b64Cvt_exact s).1, (b64Cvt_exact s).2, b64Cvt_zero⟩

/-- A saturated integer read as a sample: saturation leaves it in the range of 16 bits. -/
theorem toInt_saturate16 (r : Int) :
    (saturate16 r).toInt = if r < -32768 then -32768 else if 32767 < r then 32767 else r := by
  rw [saturate16, BitVec.toInt_ofInt]
  split
  · rfl
  · split
    · rfl
    · exact Int.bmod_eq_of_le (by omega) (by omega)

/-- Settles O46: what `q16` saturates is the integer `b64Nearest`. -/
theorem quantiserRoundsAndSaturates : Obligations.QuantiserRoundsAndSaturates := fun a =>
  ⟨b64Nearest a, (b64Nearest_error a).1, (b64Nearest_error a).2, by rw [b64Q16_eq, toInt_saturate16]⟩

end Sys2Proof.Machine
end

section
/-! PROOFS. O43 and O44: sums and products with NaNs, infinities and zeros (R113, R114, R119). -/

namespace Sys2Proof.Machine

variable {nan a b : Double}

/-! ### The classes of a number (R111) -/

theorem b64_inf_not_nan (h : b64IsInf a = true) : b64IsNaN a = false := by
  cases hn : b64IsNaN a
  · rfl
  · rw [b64_nan_not_inf hn] at h; cases h

theorem b64_zero_finite (h : b64IsZero a = true) : b64Finite a = true := by
  simp [b64IsZero, b64Finite] at *; omega

theorem b64_inf_not_zero (h : b64IsInf a = true) : b64IsZero a = false := by
  cases hz : b64IsZero a
  · rfl
  · rw [b64_finite_not_inf (b64_zero_finite hz)] at h; cases h

theorem b64Inf_fields (sign : Bool) : b64IsInf (b64Inf sign) = true ∧ b64Sign (b64Inf sign) = sign := by
  revert sign; decide

/-! ### The cases of the sum and of the product, one equation each -/

theorem b64Add_nan (h : b64IsNaN a = true ∨ b64IsNaN b = true) : b64Add nan a b = nan := by
  simp [b64Add, h]

theorem b64Mul_nan (h : b64IsNaN a = true ∨ b64IsNaN b = true) : b64Mul nan a b = nan := by
  simp [b64Mul, h]

theorem b64Add_inf_inf (ha : b64IsInf a = true) (hb : b64IsInf b = true) :
    b64Add nan a b = if b64Sign a = b64Sign b then a else nan := by
  by_cases hs : b64Sign a = b64Sign b <;> simp [b64Add, b64_inf_not_nan ha, b64_inf_not_nan hb, ha, hb, hs]

theorem b64Add_inf_finite (ha : b64IsInf a = true) (hb : b64Finite b = true) : b64Add nan a b = a := by
  simp [b64Add, b64_inf_not_nan ha, b64_finite_not_nan hb, ha, b64_finite_not_inf hb]

theorem b64Add_finite_inf (ha : b64Finite a = true) (hb : b64IsInf b = true) : b64Add nan a b = b := by
  simp [b64Add, b64_finite_not_nan ha, b64_inf_not_nan hb, b64_finite_not_inf ha, hb]

theorem b64Mul_comm (nan a b : Double) : b64Mul nan a b = b64Mul nan b a := by
  simp only [b64Mul, Bool.or_comm (b64IsNaN a), Bool.or_comm (b64IsInf a), Bool.or_comm (b64IsZero a),
    bne_comm (a := b64Sign a), Nat.mul_comm (b64Mag a)]

theorem b64Mul_inf_zero (ha : b64IsInf a = true) (hb : b64IsZero b = true) : b64Mul nan a b = nan := by
  simp [b64Mul, ha, hb]

theorem b64Mul_inf (ha : b64IsInf a = true) (hn : b64IsNaN b = false) (hz : b64IsZero b = false) :
    b64Mul nan a b = b64Inf (b64Sign a != b64Sign b) := by
  simp [b64Mul, b64_inf_not_nan ha, b64_inf_not_zero ha, ha, hn, hz]

/-- The product of finite numbers is their exact product rounded (R114). -/
theorem b64Mul_eq_round (nan : Double) (ha : b64Finite a = true) (hb : b64Finite b = true) :
    b64Mul nan a b = b64Round (b64Sign a != b64Sign b) (b64Mag a * b64Mag b) 1074 := by
  simp [b64Mul, b64_finite_not_nan ha, b64_finite_not_nan hb, b64_finite_not_inf ha, b64_finite_not_inf hb]

/-- The sign of a sum that is zero, else the sign of the sum (R119). -/
def addSign (a b : Double) : Bool :=
  if b64Int a + b64Int b = 0 then b64Sign a && b64Sign b else decide (b64Int a + b64Int b < 0)

/-- The sum of finite numbers is their exact sum rounded (R113). -/
theorem b64Add_eq_round (nan : Double) (ha : b64Finite a = true) (hb : b64Finite b = true) :
    b64Add nan a b = b64Round (addSign a b) (b64Int a + b64Int b).natAbs 0 := by
  simp only [b64Add, b64_finite_not_nan ha, b64_finite_not_nan hb, b64_finite_not_inf ha, b64_finite_not_inf hb, addSign]
  by_cases hz : b64Int a + b64Int b = 0
  · simp [hz, b64Round_zero]
  · simp [hz]

/-! ### O43 and O44 -/

/-- Settles O43: each claim is one of the cases. -/
theorem specialOperands : Obligations.SpecialOperands := by
  intro nan a b hnan
  have produced {c : Double} (h : c = nan) : b64IsNaN c = true := by rw [h, hnan]
  refine ⟨fun h => ⟨produced (b64Add_nan h), produced (b64Add_nan ?_), produced (b64Mul_nan h)⟩, fun ha hb hs => ?_,
    fun ha hb hs => ?_, fun ha hb => ⟨b64Add_inf_finite ha hb, b64Add_finite_inf hb ha⟩, fun ha hb => ?_,
    fun ha hn hz => ?_, rfl⟩
  · rwa [(b64Neg_class b).1]
  · exact produced ((b64Add_inf_inf ha hb).trans (if_neg hs))
  · exact (b64Add_inf_inf ha hb).trans (if_pos hs)
  · exact ⟨produced (b64Mul_inf_zero ha hb), produced ((b64Mul_comm ..).trans (b64Mul_inf_zero ha hb))⟩
  · rw [b64Mul_comm nan b a, b64Mul_inf ha hn hz]
    exact ⟨(b64Inf_fields _).1, (b64Inf_fields _).2, rfl⟩

/-- Settles O44: the exact result is zero or the other operand, and neither is changed by rounding. -/
theorem signedZeros : Obligations.SignedZeros := by
  intro nan a b
  refine ⟨fun ha hb => ?_, fun ha h0 hb => ?_, fun ha hb => ?_⟩
  · rw [b64Add_eq_round nan (b64_zero_finite ha) (b64_zero_finite hb), addSign, (b64Int_eq_zero a).2 ha,
      (b64Int_eq_zero b).2 hb, Int.add_zero, if_pos rfl]
    exact b64Round_zero _ 0
  · have hne : b64Int a ≠ 0 := by simp [b64Int_eq_zero, h0]
    have hfb := b64_zero_finite hb
    rw [b64Add_eq_round nan ha hfb, b64Add_eq_round nan hfb ha, addSign, addSign, (b64Int_eq_zero b).2 hb, Int.add_zero,
      Int.zero_add, if_neg hne, if_neg hne, b64Round_b64Int ha h0]
    exact ⟨rfl, rfl⟩
  · rw [b64Mul_comm nan b a, b64Mul_eq_round nan (b64_zero_finite ha) hb, (b64Mag_eq_zero a).2 ha, Nat.zero_mul]
    exact ⟨b64Round_zero _ _, b64Round_zero _ _⟩

end Sys2Proof.Machine
end

section
/-! PROOFS. O41 and O42: a sum and a product of finite numbers is the exact one rounded to a nearest number, ties to even
(R113, R114, R117). Both are read off what `b64Round` gives, in magnitudes of 2^−(1074+j): j = 0 for the sum, j = 1074 for
the product. -/

namespace Sys2Proof.Machine

/-! ### Rounding to a multiple of the last place -/

/-- No multiple of the last place is nearer than the rounded one, and another as near leaves it even. -/
theorem roundHalfEven_nearest (k sh M : Nat) :
    ((roundHalfEven k sh : Int) * 2 ^ sh - k).natAbs ≤ ((M : Int) * 2 ^ sh - k).natAbs
      ∧ (((roundHalfEven k sh : Int) * 2 ^ sh - k).natAbs = ((M : Int) * 2 ^ sh - k).natAbs → M ≠ roundHalfEven k sh →
        roundHalfEven k sh % 2 = 0) := by
  obtain ⟨hle, heven⟩ := roundHalfEven_error k sh
  by_cases hM : M = roundHalfEven k sh
  · rw [hM]
    exact ⟨le_rfl, fun _ h => absurd rfl h⟩
  · -- two multiples are a whole place apart
    have hgap : 2 ^ sh ≤ ((M : Int) * 2 ^ sh - roundHalfEven k sh * 2 ^ sh).natAbs := by
      rw [← Int.sub_mul, Int.natAbs_mul, Int.natAbs_pow]
      exact Nat.le_mul_of_pos_left _ (by omega)
    generalize (roundHalfEven k sh : Int) * 2 ^ sh = p at *
    generalize (M : Int) * 2 ^ sh = m at *
    generalize 2 ^ sh = d at *
    exact ⟨by omega, fun h _ => heven (by omega)⟩

/-- A number is a multiple of 2^`q`, or it is below every number of 53 significant bits whose last place is 2^`q`. -/
theorem b64Mag_multiple_or_lt (c : Double) (q : Nat) : 2 ^ q ∣ b64Mag c ∨ (0 < q ∧ b64Mag c < 2 ^ 52 * 2 ^ q) := by
  have hF := b64Frac_lt c
  by_cases hq : q ≤ b64Exp c - 1
  · unfold b64Mag
    split
    · obtain rfl : q = 0 := by omega
      exact .inl (one_dvd _)
    · exact .inl ((Nat.pow_dvd_pow 2 hq).mul_left _)
  · refine .inr ⟨by omega, ?_⟩
    unfold b64Mag
    split
    · exact hF.trans_le (Nat.le_mul_of_pos_right _ (Nat.two_pow_pos q))
    · have hpow : 2 * 2 ^ (b64Exp c - 1) ≤ 2 ^ q := by
        rw [← Nat.pow_succ']
        exact Nat.pow_le_pow_right two_pos (by omega)
      calc (2 ^ 52 + b64Frac c) * 2 ^ (b64Exp c - 1)
          < (2 ^ 52 * 2) * 2 ^ (b64Exp c - 1) := Nat.mul_lt_mul_of_pos_right (by omega) (Nat.two_pow_pos _)
        _ = 2 ^ 52 * (2 * 2 ^ (b64Exp c - 1)) := Nat.mul_assoc ..
        _ ≤ 2 ^ 52 * 2 ^ q := Nat.mul_le_mul_left _ hpow

/-- Above the subnormals the magnitude to round has 53 bits down to the last place. -/
theorem le_of_roundPlace_pos {k j : Nat} (hq : 0 < roundPlace k j) : 2 ^ 52 * 2 ^ (j + roundPlace k j) ≤ k := by
  have hk : k ≠ 0 := by
    rintro rfl
    simp [roundPlace] at hq
  have hlog : 52 + (j + roundPlace k j) = Nat.log2 k := by unfold roundPlace at *; omega
  rw [← Nat.pow_add, hlog]
  exact Nat.log2_self_le hk

/-- The last fraction bit of a finite rounded value is that of its rounded significand. -/
theorem b64Round_frac_mod_two {sign : Bool} {k j : Nat} (h : b64Finite (b64Round sign k j) = true) :
    b64Frac (b64Round sign k j) % 2 = roundHalfEven k (j + roundPlace k j) % 2 := by
  have hb : roundBody k j = roundPlace k j * 2 ^ 52 + roundHalfEven k (j + roundPlace k j) :=
    if_neg (Nat.not_le.2 ((b64Round_finite sign k j).1 h))
  rw [(b64Round_fields sign k j).2.2, hb]
  omega

/-- No number has a magnitude nearer to the exact one than the rounded value has, and another as near leaves the last fraction bit
even. -/
theorem b64Round_mag_nearest {sign : Bool} {k j : Nat} (h : b64Finite (b64Round sign k j) = true) (c : Double) :
    let r := b64Round sign k j
    ((b64Mag r : Int) * 2 ^ j - k).natAbs ≤ ((b64Mag c : Int) * 2 ^ j - k).natAbs
      ∧ (((b64Mag r : Int) * 2 ^ j - k).natAbs = ((b64Mag c : Int) * 2 ^ j - k).natAbs → b64Mag c ≠ b64Mag r →
        b64Frac r % 2 = 0) := by
  intro r
  have scaled (m : Nat) : ((m * 2 ^ roundPlace k j : Nat) : Int) * 2 ^ j = m * 2 ^ (j + roundPlace k j) := by
    push_cast; ring
  rw [b64Round_frac_mod_two h, b64Round_mag h, scaled]
  rcases b64Mag_multiple_or_lt c (roundPlace k j) with ⟨M, hM⟩ | ⟨hq, hlt⟩
  · rw [hM, Nat.mul_comm _ M, scaled]
    obtain ⟨hle, heven⟩ := roundHalfEven_nearest k (j + roundPlace k j) M
    exact ⟨hle, fun ht hne => heven ht fun he => hne (by rw [he])⟩
  · -- `c` lies below 2^52 places, which lie at or below the exact magnitude
    have hle := (roundHalfEven_nearest k (j + roundPlace k j) (2 ^ 52)).1
    have hk : ((2 ^ 52 : Nat) : Int) * 2 ^ (j + roundPlace k j) ≤ k := by exact_mod_cast le_of_roundPlace_pos hq
    have hc : (b64Mag c : Int) * 2 ^ j < ((2 ^ 52 : Nat) : Int) * 2 ^ (j + roundPlace k j) := by
      rw [← scaled]
      exact Int.mul_lt_mul_of_pos_right (by exact_mod_cast hlt) (by positivity)
    generalize (roundHalfEven k (j + roundPlace k j) : Int) * 2 ^ (j + roundPlace k j) = p at *
    generalize ((2 ^ 52 : Nat) : Int) * 2 ^ (j + roundPlace k j) = m at *
    generalize (b64Mag c : Int) * 2 ^ j = u at *
    exact ⟨by omega, fun _ _ => by omega⟩

/-! ### Values with their signs -/

/-- The integer with the given sign and magnitude. -/
def signed (sign : Bool) (k : Nat) : Int := if sign then -(k : Int) else (k : Int)

@[simp] theorem signed_true (k : Nat) : signed true k = -(k : Int) := rfl
@[simp] theorem signed_false (k : Nat) : signed false k = k := rfl

theorem b64Int_eq_signed (a : Double) : b64Int a = signed (b64Sign a) (b64Mag a) := rfl

theorem natAbs_signed (sign : Bool) (k : Nat) : (signed sign k).natAbs = k := by
  cases sign <;> simp

theorem signed_mul (sign sign' : Bool) (k k' : Nat) : signed sign k * signed sign' k' = signed (sign != sign') (k * k') := by
  cases sign <;> cases sign' <;> simp

/-- Under one sign a distance is that of the magnitudes. -/
theorem natAbs_signed_sub (sign : Bool) (m k : Nat) (u : Int) :
    (signed sign m * u - signed sign k).natAbs = ((m : Int) * u - k).natAbs := by
  cases sign
  · rfl
  · rw [signed_true, signed_true, Int.neg_mul]
    omega

/-- Under any signs a distance is at least that of the magnitudes. -/
theorem le_natAbs_signed_sub (sign sign' : Bool) (m k : Nat) {u : Int} (hu : 0 ≤ u) :
    ((m : Int) * u - k).natAbs ≤ (signed sign' m * u - signed sign k).natAbs := by
  have hpos : 0 ≤ (m : Int) * u := Int.mul_nonneg (Int.natCast_nonneg m) hu
  cases sign <;> cases sign' <;> simp only [signed_true, signed_false, Int.neg_mul] <;> omega

/-- The distance of a rounded value from the exact one, in magnitudes. -/
theorem b64Round_distance (sign : Bool) (k j : Nat) : (b64Int (b64Round sign k j) * 2 ^ j - signed sign k).natAbs =
    ((b64Mag (b64Round sign k j) : Int) * 2 ^ j - k).natAbs := by
  rw [b64Int_eq_signed, (b64Round_fields sign k j).1, natAbs_signed_sub]

section
variable {sign : Bool} {k j : Nat} (h : b64Finite (b64Round sign k j) = true)
include h

/-- No number is nearer to the exact value than the rounded one (R113). -/
theorem b64Round_nearest (c : Double) :
    (b64Int (b64Round sign k j) * 2 ^ j - signed sign k).natAbs ≤ (b64Int c * 2 ^ j - signed sign k).natAbs := by
  rw [b64Round_distance]
  exact (b64Round_mag_nearest h c).1.trans (le_natAbs_signed_sub _ _ _ _ (by positivity))

/-- Of two nearest numbers the rounded value is the even one (R113). A number of the same magnitude and the other sign is as near
only when both are zero. -/
theorem b64Round_even {c : Double}
    (ht : (b64Int (b64Round sign k j) * 2 ^ j - signed sign k).natAbs = (b64Int c * 2 ^ j - signed sign k).natAbs)
    (hne : b64Int c ≠ b64Int (b64Round sign k j)) : b64Frac (b64Round sign k j) % 2 = 0 := by
  by_cases hm : b64Mag c = b64Mag (b64Round sign k j)
  · exfalso
    have hzero := b64Round_nearest h 0#64
    rw [show b64Int 0#64 = 0 by decide, Int.zero_mul, Int.zero_sub] at hzero
    rw [← b64Int_natAbs, ← b64Int_natAbs, Int.natAbs_eq_natAbs_iff, or_iff_right hne] at hm
    rw [hm, Int.neg_mul] at ht
    have h0 : b64Int (b64Round sign k j) * 2 ^ j = 0 := by omega
    obtain hr | hp := Int.mul_eq_zero.1 h0
    · exact hne (by rw [hm, hr, Int.neg_zero])
    · exact absurd hp (by positivity)
  · obtain ⟨hle, heven⟩ := b64Round_mag_nearest h c
    have hge := (le_natAbs_signed_sub sign (b64Sign c) (b64Mag c) k (u := 2 ^ j) (by positivity)).trans ht.ge
    rw [b64Round_distance] at hge
    exact heven (le_antisymm hle hge) hm

end

/-! ### The sum (R113) -/

/-- Numbers that cancel have different signs, unless they are zeros (R119). -/
theorem addSign_of_cancel {a b : Double} (hz : b64Int a + b64Int b = 0) (h0 : b64IsZero a = false) : addSign a b = false := by
  rw [addSign, if_pos hz, Bool.and_eq_false_iff]
  by_contra! hs
  rw [Bool.ne_false_iff, Bool.ne_false_iff] at hs
  have ha := (b64Int_neg_iff a).2 ⟨hs.1, h0⟩
  rw [b64Int_eq_signed b, hs.2, signed_true] at hz
  omega

theorem signed_addSign (a b : Double) : signed (addSign a b) (b64Int a + b64Int b).natAbs = b64Int a + b64Int b := by
  unfold addSign
  generalize b64Int a + b64Int b = z
  by_cases hz : z = 0
  · rw [hz]
    cases b64Sign a && b64Sign b <;> rfl
  · by_cases hn : z < 0
    · rw [if_neg hz, decide_eq_true hn, signed_true]; omega
    · rw [if_neg hz, decide_eq_false hn, signed_false]; omega

theorem b64Zero_finite (sign : Bool) : b64Finite (b64Zero sign) = true := by
  revert sign; decide

/-- Settles O41: the sum is the exact one rounded, in units of 2^−1074. -/
theorem addRoundsToNearestEven : Obligations.AddRoundsToNearestEven := by
  intro nan a b ha hb
  have hsigned := signed_addSign a b
  have hsign (h : b64Int a + b64Int b ≠ 0) : addSign a b = decide (b64Int a + b64Int b < 0) := if_neg h
  have hcancel := addSign_of_cancel (a := a) (b := b)
  simp only [b64Add_eq_round nan ha hb]
  generalize b64Int a + b64Int b = z at *
  have hfin := b64Round_finite_iff (addSign a b) z.natAbs 0
  rw [Nat.add_zero] at hfin
  refine ⟨hfin, fun h => ?_, fun hz h0 => ?_, fun h c _ => ?_⟩
  · have hz : z ≠ 0 := by
      rintro rfl
      rw [Int.natAbs_zero, b64Round_zero, b64Zero_finite] at h; cases h
    rw [b64Round_inf h, hsign hz]
  · rw [hcancel hz h0, hz]
    exact b64Round_zero false 0
  · have hle := b64Round_nearest h c
    have heven := b64Round_even (c := c) h
    rw [hsigned, pow_zero, mul_one, mul_one] at hle heven
    exact ⟨hle, heven⟩

/-! ### The product (R114) -/

/-- Settles O42: the product is the exact one rounded, in units of 2^−2148. -/
theorem mulRoundsToNearestEven : Obligations.MulRoundsToNearestEven := by
  intro nan a b ha hb
  simp only [b64Mul_eq_round nan ha hb, b64Int_eq_signed a, b64Int_eq_signed b, signed_mul, natAbs_signed]
  have hfin := b64Round_finite_iff (b64Sign a != b64Sign b) (b64Mag a * b64Mag b) 1074
  rw [show 2044 + 1074 = 3118 from rfl] at hfin
  exact ⟨(b64Round_fields _ _ _).1, hfin, b64Round_inf,
    fun h c _ => ⟨b64Round_nearest h c, b64Round_even h⟩⟩

end Sys2Proof.Machine
end

section
/-! PROOFS. O47 and O48: over the rationals (R125) the loops of ESTIMATE and ADAPT compute the sums of R148 and R166. -/

namespace Sys2Proof.Machine

theorem delayAt_of_le (x : Nat → Sample) {n k : Nat} (h : k ≤ n) : delayAt x n k = x (n - k) := if_pos h

/-- Before the frame the delay line holds zeros (R146). -/
theorem toInt_delayAt_of_lt (x : Nat → Sample) {n k : Nat} (h : n < k) : (delayAt x n k).toInt = 0 := by
  rw [delayAt, if_neg (Nat.not_le.2 h), BitVec.toInt_zero]

/-- Adding the terms one by one from the left gives their sum. -/
theorem foldl_range_add (f : Nat → ℚ) (a : ℚ) (n : Nat) :
    (List.range n).foldl (fun acc k => acc + f k) a = a + ∑ k ∈ Finset.range n, f k := by
  induction n with
  | zero => simp
  | succ n ih => rw [List.range_succ, List.foldl_append, ih, Finset.sum_range_succ, ← add_assoc]; rfl

/-- The reference estimate over the rationals: the taps before the frame add nothing (R148). -/
theorem convAt_exact (w : Nat → ℚ) (x : Nat → Sample) (L n : Nat) :
    convAt exactNum w x L n = ∑ k ∈ Finset.range (min (n + 1) L), w k * ((x (n - k)).toInt : ℚ) := by
  have hsum : convAt exactNum w x L n = ∑ k ∈ Finset.range L, w k * ((delayAt x n k).toInt : ℚ) :=
    (foldl_range_add _ 0 L).trans (zero_add _)
  have hsub : Finset.range (min (n + 1) L) ⊆ Finset.range L := Finset.range_subset_range.2 (min_le_right _ _)
  rw [hsum, ← Finset.sum_subset hsub fun k hk hout => ?_]
  · refine Finset.sum_congr rfl fun k hk => ?_
    rw [Finset.mem_range] at hk
    rw [delayAt_of_le x (by omega)]
  · rw [Finset.mem_range] at hk hout
    rw [toInt_delayAt_of_lt x (by omega), Int.cast_zero, mul_zero]

/-- The reference coefficient over the rationals: the samples whose line does not reach tap `k` add nothing (R166). -/
theorem coeffAt_exact (mu : ℚ) (e : Nat → ℚ) (x : Nat → Sample) (k N : Nat) (w0 : ℚ) :
    coeffAt exactNum mu e x k N w0 = w0 + mu * ∑ n ∈ Finset.Ico k N, e n * ((x (n - k)).toInt : ℚ) := by
  have hsum : coeffAt exactNum mu e x k N w0 = w0 + ∑ n ∈ Finset.range N, mu * e n * ((delayAt x n k).toInt : ℚ) :=
    foldl_range_add _ w0 N
  have hsub : Finset.Ico k N ⊆ Finset.range N := fun n hn => Finset.mem_range.2 (Finset.mem_Ico.1 hn).2
  rw [hsum, Finset.mul_sum, ← Finset.sum_subset hsub fun n hn hout => ?_]
  · refine congrArg (w0 + ·) (Finset.sum_congr rfl fun n hn => ?_)
    rw [delayAt_of_le x (Finset.mem_Ico.1 hn).1, mul_assoc]
  · rw [Finset.mem_range] at hn
    rw [Finset.mem_Ico] at hout
    rw [toInt_delayAt_of_lt x (by omega), Int.cast_zero, mul_zero]

/-- Settles O47: every rational is finite, so no anomaly ends the pass, and `y[n]` is the reference estimate. -/
theorem exactEstimateIsConvolution : Obligations.ExactEstimateIsConvolution := by
  intro N L x d hL
  obtain ⟨hnone, hsome⟩ := estPass_spec exactNum N hL x d
  cases hr : (estPass exactNum N L x d).2 with
  | some e =>
    obtain ⟨-, -, -, -, hnot⟩ := hsome e hr
    cases hnot
  | none =>
    obtain ⟨hest, -⟩ := hnone hr
    exact ⟨rfl, fun n hn => ((hest.ybuf n).trans (if_pos hn)).trans (convAt_exact _ x L n)⟩

/-- Settles O48: every rational is finite, so no anomaly ends the pass, and `w'[k]` is the reference coefficient. -/
theorem exactAdaptIsBlockUpdate : Obligations.ExactAdaptIsBlockUpdate := by
  intro mu N L x d hL
  obtain ⟨hnone, hsome⟩ := adpPass_spec exactNum mu N hL x d
  cases hr : (adpPass exactNum mu N L x d).2 with
  | some e =>
    obtain ⟨-, -, -, -, -, hnot⟩ := hsome e hr
    cases hnot
  | none =>
    obtain ⟨hadp, -⟩ := hnone hr
    exact ⟨rfl, fun k hk => ((hadp.wmem k).trans (if_pos hk)).trans (coeffAt_exact mu _ x k N _)⟩

end Sys2Proof.Machine
end

section
/-! PROOFS. O49: a long command completed from two states that differ only in what a host cannot read ends in states it cannot tell
apart, but for NaN bits (R126, R118): the states stay `Alike` through every pass. -/

namespace Sys2Proof.Machine

/-! ### Buffers and datapaths alike up to NaN bits -/

/-- The NUM buffers have the same elements, up to the bits of a NaN in binary64. -/
def BufAlike (fmt : BitVec 8) (b b' : Buf NumCode) : Prop :=
  ∀ i, sameCode fmt (bufGet (numOf fmt 0#64).zero b i) (bufGet (numOf fmt 0#64).zero b' i)

/-- The datapaths agree in what a pass reads and a host sees, up to NaN bits; `ACC`, `G` and the sequencer are free. -/
structure DatapathAlike (fmt : BitVec 8) (d d' : Datapath NumCode) : Prop where
  tdl : d.tdl = d'.tdl
  obuf : d.obuf = d'.obuf
  wmem : BufAlike fmt d.wmem d'.wmem
  ybuf : BufAlike fmt d.ybuf d'.ybuf
  ebuf : BufAlike fmt d.ebuf d'.ebuf

/-- Two runs of a pass, or of a part of it, end by the same anomaly or both by none, in datapaths that are alike. -/
def PassAlike (fmt : BitVec 8) (r r' : Datapath NumCode × Option Anomaly) : Prop :=
  r.2 = r'.2 ∧ DatapathAlike fmt r.1 r'.1

/-- Within a sample of the adapt pass the gain in `G` is alike too. -/
def GainAlike (fmt : BitVec 8) (d d' : Datapath NumCode) : Prop := DatapathAlike fmt d d' ∧ sameCode fmt d.g d'.g

section
variable {fmt : BitVec 8} {b b' : Buf NumCode}

theorem BufAlike.refl (b : Buf NumCode) : BufAlike fmt b b := fun _ => sameCode.refl _ _

theorem BufAlike.set (h : BufAlike fmt b b') (i : Nat) {v v' : NumCode} (hv : sameCode fmt v v') :
    BufAlike fmt (bufSet (numOf fmt 0#64).zero b i v) (bufSet (numOf fmt 0#64).zero b' i v') := fun j => by
  rw [bufGet_bufSet, bufGet_bufSet]
  split
  · exact hv
  · exact h j

theorem BufAlike.clear (h : BufAlike fmt b b') {n n' : Nat} (hn : n = n') : BufAlike fmt (bufClear n b) (bufClear n' b') :=
  fun j => by
    rw [← hn, bufGet_bufClear, bufGet_bufClear]
    split
    · exact sameCode.refl _ _
    · exact h j

end

/-- A finite number is alike to itself alone. -/
theorem eq_of_sameCode_of_finite {fmt : BitVec 8} {a b : NumCode} {nan : Double} (h : sameCode fmt a b)
    (hf : (numOf fmt nan).finite a = true) : a = b := by
  by_cases h1 : fmt = 1#8
  · subst h1
    exact sameNum_of_finite ((sameCode_default a b).1 h) hf
  · exact (sameCode_other h1 a b).1 h

/-! ### The passes -/

/-- Two runs of a loop end by the same anomaly, or both by none, in related states when each iteration relates them. -/
theorem loopUntil_rel {σ τ : Type} {f : Nat → σ → σ × Option Anomaly} {g : Nat → τ → τ × Option Anomaly} {R : σ → τ → Prop}
    (step : ∀ i d d', R d d' → (f i d).2 = (g i d').2 ∧ R (f i d).1 (g i d').1) (c i : Nat) (d : σ) (d' : τ) (h : R d d') :
    (loopUntil f i c d).2 = (loopUntil g i c d').2 ∧ R (loopUntil f i c d).1 (loopUntil g i c d').1 := by
  induction c generalizing i d d' with
  | zero => exact ⟨rfl, h⟩
  | succ c ih =>
    obtain ⟨he, hR⟩ := step i d d' h
    simp only [loopUntil]
    rcases hf : f i d with ⟨d1, _ | e⟩ <;> rcases hg : g i d' with ⟨d1', _ | e'⟩ <;> rw [hf, hg] at he hR <;> cases he
    · exact ih (i + 1) d1 d1' hR
    · exact ⟨rfl, hR⟩

/-- The sum over the first `L` taps of the line `t`, from `ZERO` (R147). -/
def tapSum (F : NumOps NumCode) (w : Buf NumCode) (t : Buf Sample) (L : Nat) : NumCode :=
  (List.range L).foldl (fun acc k => F.add acc (F.mul (bufGet F.zero w k) (F.cvt (bufGet 0#16 t k)))) F.zero

/-- A sample of the estimate pass stores the sum over the taps, and ends the pass when it is not finite (R147, R150). -/
theorem estSample_eq (F : NumOps NumCode) (L : Nat) (x : Nat → Sample) (n : Nat) (d : Datapath NumCode) :
    let y := tapSum F d.wmem (shiftIn L (x n) d.tdl) L
    estSample F L x n d =
      ({ d with tdl := shiftIn L (x n) d.tdl, acc := y, ybuf := bufSet F.zero d.ybuf n y, seqr := seqrAt .est (n + 1) 0 },
        if F.finite y then none else some { n := n, k := 0 }) := by
  simp only [estSample, estTaps_eq, tapSum]
  exact (apply_ite (Prod.mk _) _ _ _).symm

section
variable {fmt : BitVec 8} {nan nan' : Double} (hn : b64IsNaN nan = true) (hn' : b64IsNaN nan' = true)
  {d d' : Datapath NumCode}
include hn hn'

theorem tapSum_alike {w w' : Buf NumCode} (h : BufAlike fmt w w') (t : Buf Sample) (L : Nat) :
    sameCode fmt (tapSum (numOf fmt nan) w t L) (tapSum (numOf fmt nan') w' t L) :=
  List.foldl_rel (sameCode.refl _ _) fun k _ _ _ ha =>
    sameCode_add hn hn' ha (sameCode_mul hn hn' (h k) (sameCode.refl _ _))

theorem estSample_alike (L : Nat) (x : Nat → Sample) (n : Nat) (h : DatapathAlike fmt d d') :
    PassAlike fmt (estSample (numOf fmt nan) L x n d) (estSample (numOf fmt nan') L x n d') := by
  have hsum := tapSum_alike hn hn' h.wmem (shiftIn L (x n) d'.tdl) L
  simp only [estSample_eq, h.tdl, sameCode_finite hsum nan nan']
  split <;> exact ⟨rfl, rfl, h.obuf, h.wmem, h.ybuf.set n hsum, h.ebuf⟩

theorem estPass_alike (N L : Nat) (x : Nat → Sample) (h : DatapathAlike fmt d d') :
    PassAlike fmt (estPass (numOf fmt nan) N L x d) (estPass (numOf fmt nan') N L x d') :=
  loopUntil_rel (fun n _ _ => estSample_alike hn hn' L x n) N 0 _ _
    ⟨congrArg (bufClear L) h.tdl, h.obuf, h.wmem, h.ybuf, h.ebuf⟩

/-- The 16-bit output is that of a finite residual, which has no NaN bits (R156). -/
theorem resSample_alike (src : Nat → Sample) (n : Nat) (h : DatapathAlike fmt d d') :
    PassAlike fmt (resSample (numOf fmt nan) src n d) (resSample (numOf fmt nan') src n d') := by
  have hv : sameCode fmt ((numOf fmt nan).sub ((numOf fmt nan).cvt (src n)) (bufGet (numOf fmt nan).zero d.ybuf n))
      ((numOf fmt nan').sub ((numOf fmt nan').cvt (src n)) (bufGet (numOf fmt nan').zero d'.ybuf n)) :=
    sameCode_sub hn hn' (sameCode.refl _ _) (h.ybuf n)
  have hebuf := h.ebuf.set n hv
  simp only [resSample, ← sameCode_finite hv nan nan']
  split
  · next hf =>
    rw [h.obuf, ← eq_of_sameCode_of_finite hv hf] at *
    exact ⟨rfl, h.tdl, rfl, h.wmem, h.ybuf, hebuf⟩
  · exact ⟨rfl, h.tdl, h.obuf, h.wmem, h.ybuf, hebuf⟩

theorem resPass_alike (N : Nat) (src : Nat → Sample) (h : DatapathAlike fmt d d') :
    PassAlike fmt (resPass (numOf fmt nan) N src d) (resPass (numOf fmt nan') N src d') :=
  loopUntil_rel (fun n _ _ => resSample_alike hn hn' src n) N 0 _ _ ⟨h.tdl, h.obuf, h.wmem, h.ybuf, h.ebuf⟩

/-- One update of a coefficient (R165). -/
theorem adpTap_alike (n k : Nat) (h : GainAlike fmt d d') :
    (adpTap (numOf fmt nan) n k d).2 = (adpTap (numOf fmt nan') n k d').2 ∧
      GainAlike fmt (adpTap (numOf fmt nan) n k d).1 (adpTap (numOf fmt nan') n k d').1 := by
  obtain ⟨h, hg⟩ := h
  have hv : sameCode fmt
      ((numOf fmt nan).add (bufGet (numOf fmt nan).zero d.wmem k)
        ((numOf fmt nan).mul d.g ((numOf fmt nan).cvt (bufGet 0#16 d'.tdl k))))
      ((numOf fmt nan').add (bufGet (numOf fmt nan').zero d'.wmem k)
        ((numOf fmt nan').mul d'.g ((numOf fmt nan').cvt (bufGet 0#16 d'.tdl k)))) :=
    sameCode_add hn hn' (h.wmem k) (sameCode_mul hn hn' hg (sameCode.refl _ _))
  simp only [adpTap, h.tdl, sameCode_finite hv nan nan']
  split <;> exact ⟨rfl, ⟨rfl, h.obuf, h.wmem.set k hv, h.ybuf, h.ebuf⟩, hg⟩

theorem adpSample_alike (mu : NumCode) (L : Nat) (x : Nat → Sample) (n : Nat) (h : DatapathAlike fmt d d') :
    PassAlike fmt (adpSample (numOf fmt nan) mu L x n d) (adpSample (numOf fmt nan') mu L x n d') := by
  obtain ⟨he, hR, -⟩ := loopUntil_rel (R := GainAlike fmt) (fun k _ _ => adpTap_alike hn hn' n k) L 0
    { d with tdl := shiftIn L (x n) d.tdl, g := (numOf fmt nan).mul mu (bufGet (numOf fmt nan).zero d.ebuf n) }
    { d' with tdl := shiftIn L (x n) d'.tdl, g := (numOf fmt nan').mul mu (bufGet (numOf fmt nan').zero d'.ebuf n) }
    ⟨⟨congrArg (shiftIn L (x n)) h.tdl, h.obuf, h.wmem, h.ybuf, h.ebuf⟩,
      sameCode_mul hn hn' (sameCode.refl _ _) (h.ebuf n)⟩
  simp only [adpSample]
  generalize loopUntil (adpTap (numOf fmt nan) n) 0 L _ = r at *
  generalize loopUntil (adpTap (numOf fmt nan') n) 0 L _ = r' at *
  obtain ⟨d1, _ | e⟩ := r <;> obtain ⟨d1', _ | e'⟩ := r' <;> cases he
  · exact ⟨rfl, hR.tdl, hR.obuf, hR.wmem, hR.ybuf, hR.ebuf⟩
  · exact ⟨rfl, hR⟩

theorem adpPass_alike (mu : NumCode) (N L : Nat) (x : Nat → Sample) (h : DatapathAlike fmt d d') :
    PassAlike fmt (adpPass (numOf fmt nan) mu N L x d) (adpPass (numOf fmt nan') mu N L x d') :=
  loopUntil_rel (fun n _ _ => adpSample_alike hn hn' mu L x n) N 0 _ _
    ⟨congrArg (bufClear L) h.tdl, h.obuf, h.wmem, h.ybuf, h.ebuf⟩

end

/-! ### The state -/

/-- What of a state two runs have in common: all but the hidden registers, the NUM buffers and the model's own fields. -/
def State.common (s : State) : State :=
  { s with
    wmem := [], ybuf := [], ebuf := [], acc := 0#64, g := 0#64, pend := 0#32, seqr := seqrAt .idle 0 0
    freeCount := 0, inputs := [], resps := [] }

/-- The states agree in every register and buffer a host reads, up to NaN bits. -/
structure State.Alike (s t : State) : Prop where
  common : s.common = t.common
  wmem : BufAlike s.capFmt s.wmem t.wmem
  ybuf : BufAlike s.capFmt s.ybuf t.ybuf
  ebuf : BufAlike s.capFmt s.ebuf t.ebuf

namespace State.Alike

variable {s t : State}

/-- A function that looks at the common part alone gives the same of both. -/
theorem read (h : s.Alike t) {β : Type} (f : State → β) (hf : ∀ u : State, f u.common = f u := by intro _; rfl) : f s = f t := by
  rw [← hf s, ← hf t, h.common]

theorem capFmt (h : s.Alike t) : s.capFmt = t.capFmt := h.read State.capFmt

theorem sameVisible (h : s.Alike t) : s.SameVisible t where
  status := h.read statusWord
  cause := h.read State.cause
  einfo := h.read State.einfo
  seq := h.read State.seq
  irqEn := h.read State.irqEn
  irqPend := h.read State.irqPend
  caps := ⟨h.read State.capN, h.read State.capL, h.capFmt⟩
  config := ⟨h.read State.cfgN, h.read State.cfgL, h.read State.cfgMuLo, h.read State.cfgMuHi⟩
  samples i := ⟨h.read (State.xAt · i), h.read (State.dAt · i), h.read (State.oAt · i), h.read (State.tAt · i)⟩
  numbers i := by
    have hz : t.zero = s.zero := (h.read State.zero).symm
    unfold State.wAt State.yAt State.eAt
    rw [hz]
    exact ⟨h.wmem i, h.ybuf i, h.ebuf i⟩

/-- An update that keeps the NUM buffers, and whose effect on the common part rests on it alone, keeps states alike. -/
theorem update (h : s.Alike t) (f : State → State) (hf : ∀ u : State, (f u.common).common = (f u).common := by intro _; rfl)
    (hfmt : ∀ u, (f u).capFmt = u.capFmt := by intro _; rfl) (hw : ∀ u, (f u).wmem = u.wmem := by intro _; rfl)
    (hy : ∀ u, (f u).ybuf = u.ybuf := by intro _; rfl) (he : ∀ u, (f u).ebuf = u.ebuf := by intro _; rfl) :
    (f s).Alike (f t) := by
  refine ⟨h.read (fun u => (f u).common) hf, ?_, ?_, ?_⟩
  · rw [hfmt, hw, hw]; exact h.wmem
  · rw [hfmt, hy, hy]; exact h.ybuf
  · rw [hfmt, he, he]; exact h.ebuf

theorem halt (h : s.Alike t) (m : Word) : (raiseError .numeric m s).Alike (raiseError .numeric m t) :=
  h.update (raiseError .numeric m) (fun u => by rw [raiseError_numeric_eq, raiseError_numeric_eq]; rfl)
    (raiseError_capFmt _ _) (raiseError_wmem _ _) (raiseError_ybuf _ _) (raiseError_ebuf _ _)

theorem complete (h : s.Alike t) : (completeCommand s).Alike (completeCommand t) := h.update completeCommand

theorem configure (h : s.Alike t) : (configureBody s).Alike (configureBody t) :=
  ⟨h.read fun u => (configureBody u).common, h.wmem.clear (h.read State.lmax), h.ybuf.clear (h.read State.nmax),
    h.ebuf.clear (h.read State.nmax)⟩

theorem resetw (h : s.Alike t) : (resetwBody s).Alike (resetwBody t) :=
  ⟨h.read fun u => (resetwBody u).common, h.wmem.clear (h.read State.lmax), h.ybuf, h.ebuf⟩

/-! #### The passes -/

theorem datapath (h : s.Alike t) : DatapathAlike s.capFmt s.datapath t.datapath :=
  ⟨h.read State.tdl, h.read State.obuf, h.wmem, h.ybuf, h.ebuf⟩

/-- Over one format the NUM of a pass differs in the NaN pattern alone. -/
theorem num (h : s.Alike t) : t.num = numOf s.capFmt t.freeNaN := by rw [State.num, h.capFmt]

theorem withDatapath (h : s.Alike t) {d d' : Datapath NumCode} (hd : DatapathAlike s.capFmt d d') :
    (s.withDatapath d).Alike (t.withDatapath d') := by
  refine ⟨?_, hd.wmem, hd.ybuf, hd.ebuf⟩
  show { s.common with tdl := d.tdl, obuf := d.obuf } = { t.common with tdl := d'.tdl, obuf := d'.obuf }
  rw [h.common, hd.tdl, hd.obuf]

end State.Alike

/-- Two bodies go on alike or end alike. -/
def BodyAlike (r r' : State × Bool) : Prop := r.1.Alike r'.1 ∧ r.2 = r'.2

theorem endPass_alike {s t : State} (h : s.Alike t) {r r' : Datapath NumCode × Option Anomaly} (hr : PassAlike s.capFmt r r')
    (stage : BitVec 2) {done : State → State} (hdone : ∀ {u v : State}, u.Alike v → (done u).Alike (done v)) :
    BodyAlike (endPass stage done s r) (endPass stage done t r') := by
  obtain ⟨he, hd⟩ := hr
  have hw := h.withDatapath hd
  simp only [endPass, ← he]
  split
  · exact ⟨hdone hw, rfl⟩
  · exact ⟨hw.halt _, rfl⟩

section
variable {s t : State} (h : s.Alike t)
include h

theorem estimateBody_alike : BodyAlike (estimateBody s) (estimateBody t) := by
  have hpass := estPass_alike (b64IsNaN_freeNaN s) (b64IsNaN_freeNaN t) s.lenN s.lenL s.xAt h.datapath
  have hN : s.lenN = t.lenN := h.read State.lenN
  have hL : s.lenL = t.lenL := h.read State.lenL
  have hx : s.xAt = t.xAt := h.read State.xAt
  rw [estimateBody, estimateBody, h.num, ← hN, ← hL, ← hx]
  exact endPass_alike h hpass 1#2 fun h => h.update estimateDone

theorem residualBody_alike (ref : Bool) : BodyAlike (residualBody ref s) (residualBody ref t) := by
  have hpass := resPass_alike (b64IsNaN_freeNaN s) (b64IsNaN_freeNaN t) s.lenN (s.srcAt ref) h.datapath
  have hN : s.lenN = t.lenN := h.read State.lenN
  have hsrc : s.srcAt ref = t.srcAt ref := h.read (State.srcAt · ref)
  rw [residualBody, residualBody, h.num, ← hN, ← hsrc]
  exact endPass_alike h hpass 2#2 fun h => h.update (residualDone ref)

theorem adaptBody_alike : BodyAlike (adaptBody s) (adaptBody t) := by
  have hpass := adpPass_alike (b64IsNaN_freeNaN s) (b64IsNaN_freeNaN t) s.mu s.lenN s.lenL s.xAt h.datapath
  have hmu : s.mu = t.mu := h.read State.mu
  have hN : s.lenN = t.lenN := h.read State.lenN
  have hL : s.lenL = t.lenL := h.read State.lenL
  have hx : s.xAt = t.xAt := h.read State.xAt
  rw [adaptBody, adaptBody, h.num, ← hmu, ← hN, ← hL, ← hx]
  exact endPass_alike h hpass 3#2 fun h => h.update adaptDone

end

theorem andThen_alike {r r' : State × Bool} (h : BodyAlike r r') {b : State → State × Bool}
    (hb : ∀ {u v : State}, u.Alike v → BodyAlike (b u) (b v)) : BodyAlike (andThen r b) (andThen r' b) := by
  simp only [andThen, ← h.2]
  split
  · exact hb h.1
  · exact h

theorem processBody_alike {s t : State} (h : s.Alike t) (ref : Bool) : BodyAlike (processBody ref s) (processBody ref t) :=
  andThen_alike (andThen_alike (estimateBody_alike h) fun h => residualBody_alike h ref) adaptBody_alike

theorem longBody_alike {s t : State} (h : s.Alike t) (i : Instr) : (longBody i s).Alike (longBody i t) := by
  cases i with
  | configure => exact h.configure
  | resetw => exact h.resetw
  | estimate => exact (estimateBody_alike h).1
  | residual ref => exact (residualBody_alike h ref).1
  | adapt => exact (adaptBody_alike h).1
  | process ref => exact (processBody_alike h ref).1
  | nop | dispose | clrerr => exact h

/-- Settles O49: states that differ in the hidden registers and the model's own fields are alike, and every body keeps them so. -/
theorem commandsAreDeterministic : Obligations.CommandsAreDeterministic := by
  intro i s s' hl hb hs
  have kept {β : Type} (field : State → β) := congrArg field hs
  have hbusy : s'.busy = true := (kept State.busy).trans hb
  have halike : s.Alike s' := by
    refine ⟨(kept State.common).symm, ?_, ?_, ?_⟩
    · rw [kept State.wmem]; exact .refl _
    · rw [kept State.ybuf]; exact .refl _
    · rw [kept State.ebuf]; exact .refl _
  exact ⟨_, _, exec_long_busy hl hb, exec_long_busy hl hbusy, (longBody_alike halike i).complete.sameVisible⟩

end Sys2Proof.Machine
end

section
/-! PROOFS. O17, O19 to O24, O56 and O57: the life-cycle commands (R130 to R136), and which steps construct an engine and change
its configuration (R137). -/

namespace Sys2Proof.Machine

/-! ### What a command is permitted (R136) -/

/-- The machine's check is the table of R136. -/
theorem permitted_eq_commandAllowed (i : Instr) (s : State) : permitted i s = commandAllowed i s := by
  cases hst : s.st <;> cases i <;> simp [permitted, commandAllowed, commandRow, hst]

/-- The only long command that R136 permits without an engine. -/
theorem eq_configure_of_permitted {i : Instr} {s : State} (hl : i.isLong = true) (hp : permitted i s = true)
    (hst : s.st = .unconfigured) : i = .configure := by
  cases i with
  | configure => rfl
  | nop | dispose | clrerr => cases hl
  | resetw | estimate | residual | adapt | process => simp [permitted, hst] at hp

/-! ### The delivery of a short command (R130) -/

theorem runShort_permitted {i : Instr} {s : State} (hb : s.busy = false) (hp : permitted i s = true) (body : State → State) :
    runShort i body s = .next (body s) := by
  simp [runShort, hb, hp]

/-- Settles O17: NOP is permitted in every state, and its body does nothing. -/
theorem nopChangesNothing : Obligations.NopChangesNothing := by
  intro s
  rcases runShort_cases .nop (fun s => s) s with ⟨-, h⟩ | ⟨-, -, h⟩ | ⟨-, hp, -⟩
  · exact h
  · exact h
  · cases hp

/-- Settles O22: DISPOSE is permitted where an engine is constructed, and its body ends the engine. -/
theorem disposeEndsEngine : Obligations.DisposeEndsEngine := fun _ hb hst =>
  ⟨_, runShort_permitted (i := .dispose) hb (decide_eq_true hst) disposeBody, rfl⟩

/-- Settles O24: CLRERR is permitted in every state, and its body clears the record. -/
theorem clrerrClearsRecord : Obligations.ClrerrClearsRecord := fun _ hb =>
  runShort_permitted (i := .clrerr) hb rfl clearError

/-! ### The configuration check (R132) -/

/-- The check of CONFIGURE fails no bit exactly when the configuration is valid (R47 b). -/
theorem configMask_eq_zero_iff (s : State) : configMask s = 0#32 ↔ s.Configured := by
  refine ⟨configured_of_configMask, fun ⟨hN, hNm, hL, hLm, hfin, hneg⟩ => (sixBits_zero ..).2 ⟨?_, ?_, ?_, ?_, ?_, ?_⟩⟩
  · exact (congrArg _ hneg).trans (Bool.and_false _)
  · exact congrArg not hfin
  · exact decide_eq_false (Nat.not_lt.2 hLm)
  · exact decide_eq_false fun h => Nat.ne_of_gt hL (congrArg BitVec.toNat h)
  · exact decide_eq_false (Nat.not_lt.2 hNm)
  · exact decide_eq_false fun h => Nat.ne_of_gt hN (congrArg BitVec.toNat h)

/-- The fields of a word of six bits below 26 zeros. -/
theorem sixBits_fields : ∀ a b c d e f : Bool,
    let w : BitVec 32 := 0#26 ++ BitVec.ofBool a ++ BitVec.ofBool b ++ BitVec.ofBool c ++ BitVec.ofBool d ++ BitVec.ofBool e
      ++ BitVec.ofBool f
    w.getLsbD 0 = f ∧ w.getLsbD 1 = e ∧ w.getLsbD 2 = d ∧ w.getLsbD 3 = c ∧ w.getLsbD 4 = b ∧ w.getLsbD 5 = a
      ∧ w.toNat < 64 := by decide

/-- One bit for each failed check (R132, R36). -/
theorem configMask_fields (s : State) :
    (configMask s).getLsbD 0 = decide (s.lenN = 0) ∧ (configMask s).getLsbD 1 = decide (s.nmax < s.lenN)
    ∧ (configMask s).getLsbD 2 = decide (s.lenL = 0) ∧ (configMask s).getLsbD 3 = decide (s.lmax < s.lenL)
    ∧ (configMask s).getLsbD 4 = !s.format.finite s.mu
    ∧ (configMask s).getLsbD 5 = (s.format.finite s.mu && s.format.neg0 s.mu) ∧ (configMask s).toNat < 64 := by
  have zero (w : Word) : decide (w = 0#32) = decide (w.toNat = 0) := by simp [BitVec.toNat_eq]
  obtain ⟨hN, hNm, hL, hrest⟩ := sixBits_fields (s.format.finite s.mu && s.format.neg0 s.mu) (!s.format.finite s.mu)
    (decide (s.capL < s.cfgL)) (decide (s.cfgL = 0#32)) (decide (s.capN < s.cfgN)) (decide (s.cfgN = 0#32))
  exact ⟨hN.trans (zero _), hNm, hL.trans (zero _), hrest⟩

/-! ### The delivery of a long command (R130) -/

theorem runLong_invalid {i : Instr} {check : State → Option Word} {s : State} {m : Word} (hb : s.busy = false)
    (hp : permitted i s = true) (hc : check s = some m) (body : State → State) :
    runLong i check body s = .next (raiseError .config m s) := by
  simp [runLong, hb, hp, hc]

theorem runLong_accepted {i : Instr} {check : State → Option Word} {s : State} (hb : s.busy = false)
    (hp : permitted i s = true) (hc : check s = none) (body : State → State) :
    runLong i check body s = .next (acceptCommand (encode i) s) := by
  simp [runLong, hb, hp, hc]

/-- Acceptance: only CONFIGURE has a check beyond R136. -/
theorem exec_accepted {i : Instr} {s : State} (hb : s.busy = false) (hp : permitted i s = true) (hl : i.isLong = true)
    (hc : i = .configure → configMask s = 0#32) : exec i s = .next (acceptCommand (encode i) s) := by
  have plain (body : State → State) : runLong i noCheck body s = .next (acceptCommand (encode i) s) :=
    runLong_accepted hb hp rfl body
  cases i with
  | configure => exact runLong_accepted hb hp (if_pos (hc rfl)) configureBody
  | resetw => exact plain resetwBody
  | estimate => exact (exec_estimate s).trans (plain _)
  | residual ref => exact (exec_residual ref s).trans (plain _)
  | adapt => exact (exec_adapt s).trans (plain _)
  | process ref => exact (exec_process ref s).trans (plain _)
  | nop | dispose | clrerr => cases hl

/-- Settles O19: the machine permits what R136 allows, and a valid configuration passes the check. -/
theorem longCommandIsAccepted : Obligations.LongCommandIsAccepted := by
  intro i s hb ha hl hc
  have hp : permitted i s = true := (permitted_eq_commandAllowed i s).trans ha
  exact ⟨encode i, decode_encode i, exec_accepted hb hp hl fun hi => (configMask_eq_zero_iff s).2 (hc hi)⟩

/-- Settles O20: the mask of an invalid configuration is not 0, so CONFIGURE records it. -/
theorem invalidConfigurationIsRecorded : Obligations.InvalidConfigurationIsRecorded := by
  intro s hb hst hinvalid
  have hcheck : configCheck s = some (configMask s) := if_neg (mt (configMask_eq_zero_iff s).1 hinvalid)
  have hexec : exec .configure s = .next (raiseError .config (configMask s) s) :=
    runLong_invalid (i := .configure) hb (decide_eq_true hst) hcheck configureBody
  rw [raiseError_eq (c := .config) nofun] at hexec
  obtain ⟨hN, hNm, hL, hLm, hfin, hneg, hlt⟩ := configMask_fields s
  exact ⟨configMask s, hN, hNm, hL, hLm, hfin, hneg, hlt, hexec⟩

/-! ### The completion of CONFIGURE and RESETW (R132, R134) -/

/-- A canonical buffer cleared up to its bound reads as unlisted everywhere. -/
theorem bufGet_bufClear_of_bufWf {α : Type} [DecidableEq α] {z : α} {bound : Nat} {b : Buf α} (h : bufWf z bound b = true)
    (i : Nat) : bufGet z (bufClear bound b) i = z := by
  rw [bufGet_bufClear]
  split
  · rfl
  · next hi => exact bufGet_of_bufWf h (Nat.not_lt.1 hi)

/-- Settles O21: the body clears the seven buffers up to their bounds. -/
theorem configureBuildsEngine : Obligations.ConfigureBuildsEngine := by
  intro s hb hwf
  obtain ⟨hx, hd, ho, hw, hy, he, ht⟩ := (memory_wf_iff s).1 hwf
  refine ⟨_, exec_configure_busy hb, fun i => ?_, rfl⟩
  exact ⟨bufGet_bufClear_of_bufWf hx i, bufGet_bufClear_of_bufWf hd i, bufGet_bufClear_of_bufWf ho i,
    bufGet_bufClear_of_bufWf hy i, bufGet_bufClear_of_bufWf he i, bufGet_bufClear_of_bufWf hw i,
    bufGet_bufClear_of_bufWf ht i⟩

/-- Settles O23: the body clears `WMEM` up to its bound. -/
theorem resetwZeroesCoefficients : Obligations.ResetwZeroesCoefficients := by
  intro s hb hwf
  obtain ⟨-, -, -, hw, -⟩ := (memory_wf_iff s).1 hwf
  exact ⟨_, exec_resetw_busy hb, bufGet_bufClear_of_bufWf hw, rfl⟩

/-! ### Which steps construct an engine (R137 a) -/

variable {s t : State}

/-- A delivery leaves `STATE`, but for DISPOSE. -/
theorem Delivered.st {i : Instr} (hd : Delivered i s t) : t.st = s.st ∨ t.st = .unconfigured := by
  cases hd with
  | refused m _ hn => rw [raiseError_eq hn]; exact .inl rfl
  | dispose => exact .inr rfl
  | nop | clrerr | accepted => exact .inl rfl

/-- Only a completion leads out of UNCONFIGURED. -/
theorem Move.unconfigured_or_complete {e : Option Event} (hm : Move e s t) (hst : s.st = .unconfigured) :
    t.st = .unconfigured ∨
      ∃ i, s.busy = true ∧ decode s.pend = .ok i ∧ i.isLong = true ∧ t = completeCommand (longBody i s) := by
  cases hm with
  | wait | answer | config | interrupt | source | desired | coefficient => exact .inl hst
  | illegal c => rw [raiseError_eq (c := .illegal) nofun]; exact .inl hst
  | deliver _ hd => exact .inl (hd.st.elim (·.trans hst) id)
  | complete hb hd hl => exact .inr ⟨_, hb, hd, hl, rfl⟩
  | reset => exact .inl rfl

/-- Settles O56: the command completed was permitted in UNCONFIGURED, so it is CONFIGURE. -/
theorem onlyConfigureLeavesUnconfigured : Obligations.OnlyConfigureLeavesUnconfigured := by
  intro s t h ht hst hne
  rcases (step_move ht).unconfigured_or_complete hst with hu | ⟨i, hb, hd, hl, rfl⟩
  · exact absurd hu hne
  · have hp := ((h.withInputs s.inputs.tail).latch hb).of_decode hd
    obtain rfl := eq_configure_of_permitted hl hp.1 hst
    exact ⟨rfl, hb, hd⟩

/-! ### Which steps change the configuration (R137 b, R67) -/

/-- The configuration registers (R26 to R28). -/
def State.configuration (s : State) : Word × Word × Word × Word := (s.cfgN, s.cfgL, s.cfgMuLo, s.cfgMuHi)

theorem raiseError_configuration (c : Cause) (m : Word) (s : State) :
    (raiseError c m s).configuration = s.configuration := by
  simp [State.configuration]

theorem longBody_configuration (i : Instr) (s : State) : (longBody i s).configuration = s.configuration := by
  by_cases hi : i = .configure
  · subst hi; rfl
  · exact (congrArg State.configuration (longBody_frame hi s) :)

theorem Delivered.configuration {i : Instr} (hd : Delivered i s t) : t.configuration = s.configuration := by
  cases hd with
  | refused m => exact raiseError_configuration _ m s
  | nop | dispose | clrerr | accepted => rfl

/-- While an engine is constructed only reset changes the configuration. -/
theorem Move.configuration {e : Option Event} (hm : Move e s t) (hst : s.st ≠ .unconfigured) (he : e ≠ some .reset) :
    t.configuration = s.configuration := by
  cases hm with
  | wait | answer | interrupt | source | desired | coefficient => rfl
  | illegal c => exact raiseError_configuration _ c _
  | deliver _ hd => exact hd.configuration
  | config _ _ _ _ _ hu => exact absurd hu hst
  | complete => exact longBody_configuration _ s
  | reset => exact absurd rfl he

/-- Settles O57: a step is a `Move`, and none but reset changes the configuration of an engine. -/
theorem configurationIsFrozen : Obligations.ConfigurationIsFrozen := by
  intro s t _ ht hst hreset
  have he : s.inputs.head? ≠ some .reset := fun hh => by
    obtain ⟨rest, hr⟩ := List.head?_eq_some_iff.1 hh
    exact hreset rest hr
  have kept : t.configuration = s.configuration := (step_move ht).configuration hst he
  simpa only [State.configuration, Prod.mk.injEq] using kept

end Sys2Proof.Machine
end

section
/-! PROOFS. O25, O26 and O34: ESTIMATE, completed or ended by its first non-finite sum (R146 to R151). -/

namespace Sys2Proof.Machine

/-! ### How the estimate pass ends (R147, R150) -/

section
variable {α : Type} [DecidableEq α] {F : NumOps α} {N L : Nat} {x : Nat → Sample} {d : Datapath α}

/-- With finite sums no anomaly ends the pass. -/
theorem estPass_completes (hL : 0 < L) (h : ∀ n < N, F.finite (convAt F (bufGet F.zero d.wmem) x L n) = true) :
    (estPass F N L x d).2 = none := by
  cases hr : (estPass F N L x d).2 with
  | none => rfl
  | some e =>
    obtain ⟨-, hn, -, -, hnot⟩ := (estPass_spec F N hL x d).2 e hr
    rw [h e.n hn] at hnot
    cases hnot

/-- The first sum that is not finite ends the pass: an earlier end would need a sum before it that is not. -/
theorem estPass_halts {n : Nat} (hL : 0 < L) (hn : n < N)
    (hfin : ∀ m < n, F.finite (convAt F (bufGet F.zero d.wmem) x L m) = true)
    (hnot : F.finite (convAt F (bufGet F.zero d.wmem) x L n) = false) :
    (estPass F N L x d).2 = some { n := n, k := 0 } := by
  obtain ⟨hnone, hsome⟩ := estPass_spec F N hL x d
  cases hr : (estPass F N L x d).2 with
  | none =>
    rw [(hnone hr).2 n hn] at hnot
    cases hnot
  | some e =>
    obtain ⟨hk, -, -, hfin', hnot'⟩ := hsome e hr
    have hge : n ≤ e.n := Nat.not_lt.1 fun hlt => Bool.eq_false_iff.1 hnot' (hfin _ hlt)
    have hle : e.n ≤ n := Nat.not_lt.1 fun hlt => Bool.eq_false_iff.1 hnot (hfin' _ hlt)
    rw [← hk, ← Nat.le_antisymm hle hge]

end

/-- The delay line after a whole frame (R151). -/
theorem lineAfter_frame {x : Nat → Sample} {L N : Nat} (hN : 1 ≤ N) (old : Nat → Sample) (k : Nat) :
    lineAfter x L N old k = if k < L then (if k < N then x (N - 1 - k) else 0#16) else old k := by
  have hlt : k ≤ N - 1 ↔ k < N := by omega
  simp only [lineAfter, delayAt, if_neg (Nat.ne_of_gt hN), hlt]

/-- What the estimate pass changes of the state: it keeps the coefficients, the residual and its quantised form. -/
theorem EstUpTo.withDatapath_eq {s : State} {F : NumOps NumCode} {L m : Nat} {x : Nat → Sample} {d : Datapath NumCode}
    (h : EstUpTo F L x s.datapath m d) : s.withDatapath d =
      { s with tdl := d.tdl, acc := d.acc, g := d.g, ybuf := d.ybuf, seqr := d.seqr, freeCount := s.freeCount + 1 } := by
  rw [State.withDatapath, h.wmem, h.ebuf, h.obuf]
  rfl

/-! ### O25 -/

/-- Settles O25: the estimate pass runs to its end, over `YBUF` and the delay line alone. -/
theorem estimateComputesConvolution : Obligations.EstimateComputesConvolution := by
  intro s hb ⟨hN, _, hL, _⟩ hfin
  have hr : (estPass s.num s.lenN s.lenL s.xAt s.datapath).2 = none := estPass_completes hL hfin
  obtain ⟨hest, -⟩ := (estPass_spec s.num s.lenN hL s.xAt s.datapath).1 hr
  refine ⟨_, exec_estimate_busy hb, ?_⟩
  rw [estimateBody, endPass_completes _ _ _ hr, hest.withDatapath_eq]
  exact ⟨hest.ybuf, fun k => (hest.line k).trans (lineAfter_frame hN _ k), rfl⟩

/-! ### O26 -/

/-- The layout of `EINFO` of a NUMERIC error as a sum (R36). -/
theorem numericInfo_eq (stage : BitVec 2) {n k : Nat} (hn : n < 2 ^ 14) (hk : k < 2 ^ 14) :
    numericInfo stage n k = BitVec.ofNat 32 (stage.toNat + 4 * n + 65536 * k) := by
  have hs := stage.isLt
  refine BitVec.eq_of_toNat_eq ?_
  simp only [numericInfo, BitVec.toNat_append, BitVec.toNat_ofNat, Nat.mod_eq_of_lt hn, Nat.mod_eq_of_lt hk]
  rw [← Nat.shiftLeft_add_eq_or_of_lt (by omega), ← Nat.shiftLeft_add_eq_or_of_lt (by omega),
    ← Nat.shiftLeft_add_eq_or_of_lt (by omega)]
  simp only [Nat.shiftLeft_eq]
  omega

/-- A pass that an anomaly ended halts the engine (R188). -/
theorem endPass_halts (stage : BitVec 2) (done : State → State) (s : State) {r : Datapath NumCode × Option Anomaly}
    {e : Anomaly} (h : r.2 = some e) :
    endPass stage done s r = (raiseError .numeric (numericInfo stage e.n e.k) (s.withDatapath r.1), false) := by
  simp only [endPass, h]

/-- Settles O26: the estimate pass halts after sample `n`, whose sum it has stored, with the line as that sample left it. -/
theorem estimateAnomalyHalts : Obligations.EstimateAnomalyHalts := by
  intro s n hb ⟨_, hNm, hL, _⟩ ⟨_, hcap, _⟩ hn hfin hnot
  have hr : (estPass s.num s.lenN s.lenL s.xAt s.datapath).2 = some { n := n, k := 0 } := estPass_halts hL hn hfin hnot
  obtain ⟨-, -, hest, -⟩ := (estPass_spec s.num s.lenN hL s.xAt s.datapath).2 _ hr
  have hbound : n < 2 ^ 14 := (hn.trans_le (hNm.trans hcap)).trans (by decide)
  have hinfo : numericInfo 1#2 n 0 = BitVec.ofNat 32 (1 + 4 * n) := numericInfo_eq 1#2 hbound (by decide)
  refine ⟨_, exec_estimate_busy hb, ?_⟩
  rw [estimateBody, endPass_halts _ _ _ hr, hinfo, hest.withDatapath_eq, raiseError_numeric_eq]
  have hirq : s.irqPend ||| 0b10#2 ||| 0b01#2 = s.irqPend ||| 3#2 := BitVec.or_assoc ..
  exact ⟨fun m => (hest.ybuf m).trans (if_congr Nat.lt_succ_iff rfl rfl), hest.line, by rw [← hirq]; rfl⟩

/-! ### O34 -/

theorem b64IsZero_b64Zero (sign : Bool) : b64IsZero (b64Zero sign) = true := by
  revert sign; decide

/-- The product of a zero and a finite number is a zero, and +0 plus a zero is +0 (R114, R119). -/
theorem b64Add_zero_mul_zero (nan : Double) {a b : Double} (ha : b64IsZero a = true) (hb : b64Finite b = true) :
    b64Add nan 0#64 (b64Mul nan a b) = 0#64 := by
  obtain ⟨-, -, hmul⟩ := signedZeros nan a b
  obtain ⟨hadd, -⟩ := signedZeros nan 0#64 (b64Zero (b64Sign a != b64Sign b))
  rw [(hmul ha hb).1, hadd (by decide) (b64IsZero_b64Zero _)]
  rfl

/-- With every coefficient a zero each tap leaves the sum at +0 (R149 a). -/
theorem convAt_zero_coefficients (nan : Double) {w : Nat → Double} {L : Nat} (hw : ∀ k < L, b64IsZero (w k) = true)
    (x : Nat → Sample) (n : Nat) : convAt (binary64 nan) w x L n = 0#64 := by
  refine List.foldlRecOn (motive := (· = 0#64)) _ _ rfl fun acc hacc k hk => ?_
  rw [hacc]
  exact b64Add_zero_mul_zero nan (hw k (List.mem_range.1 hk)) (b64Cvt_exact _).1

/-- Settles O34: all sums are +0, so finite, and `YBUF` holds the sums. -/
theorem zeroCoefficientsGiveZero : Obligations.ZeroCoefficientsGiveZero := by
  intro s hfmt hb hcfg hw
  have hzero (n : Nat) : convAt s.num s.wAt s.xAt s.lenL n = 0#64 := by
    rw [num_of_default hfmt]
    exact convAt_zero_coefficients _ hw s.xAt n
  have hfin (n : Nat) (_ : n < s.lenN) : s.num.finite (convAt s.num s.wAt s.xAt s.lenL n) = true := by
    rw [hzero, num_of_default hfmt]
    exact (by decide : b64Finite 0#64 = true)
  obtain ⟨t, ht, hy, -, hframe⟩ := estimateComputesConvolution s hb hcfg hfin
  refine ⟨t, ht, by rw [hframe], fun n hn => ?_⟩
  rw [hy, if_pos hn, hzero]

end Sys2Proof.Machine
end

section
/-! PROOFS. O28 and O36: RESIDUAL ended by its first non-finite error (R159), and why a finite estimate never ends it so in binary64
(R158 e). -/

namespace Sys2Proof.Machine

/-! ### O28 -/

/-- The first difference that is not finite ends the residual step: an earlier end would need a difference before it that is not. -/
theorem resPass_halts {α : Type} [DecidableEq α] {F : NumOps α} {N n : Nat} {src : Nat → Sample} {d : Datapath α} (hn : n < N)
    (hfin : ∀ m < n, F.finite (residualAt F src (bufGet F.zero d.ybuf) m) = true)
    (hnot : F.finite (residualAt F src (bufGet F.zero d.ybuf) n) = false) :
    (resPass F N src d).2 = some { n := n, k := 0 } := by
  obtain ⟨hnone, hsome⟩ := resPass_spec F N src d
  cases hr : (resPass F N src d).2 with
  | none =>
    rw [(hnone hr).2 n hn] at hnot
    cases hnot
  | some e =>
    obtain ⟨hk, -, -, hfin', hnot'⟩ := hsome e hr
    have hge : n ≤ e.n := Nat.not_lt.1 fun hlt => Bool.eq_false_iff.1 hnot' (hfin _ hlt)
    have hle : e.n ≤ n := Nat.not_lt.1 fun hlt => Bool.eq_false_iff.1 hnot (hfin' _ hlt)
    rw [← hk, ← Nat.le_antisymm hle hge]

/-- Settles O28: the residual step halts at sample `n`, whose difference it has stored and not quantised. -/
theorem residualAnomalyHalts : Obligations.ResidualAnomalyHalts := by
  intro ref s n hb ⟨_, hNm, _⟩ ⟨_, hcap, _⟩ hn hfin hnot
  rw [← srcAt_eq] at hfin hnot ⊢
  have hr : (resPass s.num s.lenN (s.srcAt ref) s.datapath).2 = some { n := n, k := 0 } := resPass_halts hn hfin hnot
  obtain ⟨-, -, hres, -⟩ := (resPass_spec s.num s.lenN (s.srcAt ref) s.datapath).2 _ hr
  have hbound : n < 2 ^ 14 := (hn.trans_le (hNm.trans hcap)).trans (by decide)
  have hinfo : numericInfo 2#2 n 0 = BitVec.ofNat 32 (2 + 4 * n) := numericInfo_eq 2#2 hbound (by decide)
  refine ⟨_, exec_residual_busy hb, ?_⟩
  rw [residualBody, endPass_halts _ _ _ hr, hinfo, withDatapath_of_kept hres.tdl hres.wmem hres.ybuf, raiseError_numeric_eq]
  have hirq : s.irqPend ||| 0b10#2 ||| 0b01#2 = s.irqPend ||| 3#2 := BitVec.or_assoc ..
  exact ⟨fun m => (hres.ebuf m).trans (if_congr Nat.lt_succ_iff rfl rfl), hres.obuf, by rw [← hirq]; rfl⟩

/-! ### O36: a sample is too small to carry a finite number past the largest one -/

/-- A magnitude in units of half of the last place of the largest exponent it may have (R111). -/
theorem b64Mag_le {a : Double} {q : Nat} (h : b64Exp a ≤ q + 2) : b64Mag a ≤ (2 ^ 54 - 2) * 2 ^ q := by
  have hF := b64Frac_lt a
  unfold b64Mag
  split
  · exact (show b64Frac a ≤ 2 ^ 54 - 2 by omega).trans (Nat.le_mul_of_pos_right _ (Nat.two_pow_pos q))
  · calc (2 ^ 52 + b64Frac a) * 2 ^ (b64Exp a - 1)
        ≤ (2 ^ 53 - 1) * 2 ^ (q + 1) := Nat.mul_le_mul (by omega) (Nat.pow_le_pow_right two_pos (by omega))
      _ = (2 ^ 54 - 2) * 2 ^ q := by rw [Nat.pow_succ]; omega

/-- The largest finite magnitude, in the units of the overflow bound of R113. -/
theorem b64Mag_le_of_finite {a : Double} (h : b64Finite a = true) : b64Mag a ≤ (2 ^ 54 - 2) * 2 ^ 2044 := by
  have hlt := b64Exp_lt a
  have hne : b64Exp a ≠ 2047 := by simpa [b64Finite] using h
  exact b64Mag_le (by omega)

/-- A converted sample is at most 2^15 in magnitude (R112). -/
theorem b64Mag_cvt_le (s : Sample) : b64Mag (b64Cvt s) ≤ 2 ^ 15 * 2 ^ 1074 := by
  have hs : s.toInt.natAbs ≤ 2 ^ 15 := by
    have hlo := BitVec.le_toInt s
    have hhi := BitVec.toInt_lt (x := s)
    omega
  have hmag : b64Mag (b64Cvt s) = s.toInt.natAbs * 2 ^ 1074 :=
    (b64Round_smallInt _ (hs.trans_lt (by decide)) (by decide)).2
  rw [hmag]
  exact Nat.mul_le_mul_right _ hs

/-- A sample less a finite number is finite: 2^15 is below half of the last place of the largest finite number (R158 e). -/
theorem b64Sub_cvt_finite (nan : Double) (s : Sample) {y : Double} (hy : b64Finite y = true) :
    b64Finite (b64Sub nan (b64Cvt s) y) = true := by
  obtain ⟨-, -, hclass, -⟩ := b64Neg_class y
  have hneg : b64Finite (b64Neg y) = true := hclass.trans hy
  obtain ⟨hiff, -⟩ := addRoundsToNearestEven nan (b64Cvt s) (b64Neg y) (b64Cvt_exact s).1 hneg
  refine hiff.2 ?_
  have hpow {p q r : Nat} (h : p + q < r) : 2 ^ p * 2 ^ q < 2 ^ r := by
    rw [← Nat.pow_add]
    exact Nat.pow_lt_pow_right one_lt_two h
  have hunits (u : Nat) : u + (2 ^ 54 - 2) * u = (2 ^ 54 - 1) * u := by omega
  calc (b64Int (b64Cvt s) + b64Int (b64Neg y)).natAbs
      ≤ b64Mag (b64Cvt s) + b64Mag (b64Neg y) := by
        rw [← b64Int_natAbs, ← b64Int_natAbs]; exact Int.natAbs_add_le _ _
    _ ≤ 2 ^ 15 * 2 ^ 1074 + (2 ^ 54 - 2) * 2 ^ 2044 := Nat.add_le_add (b64Mag_cvt_le s) (b64Mag_le_of_finite hneg)
    _ < 2 ^ 2044 + (2 ^ 54 - 2) * 2 ^ 2044 := Nat.add_lt_add_right (hpow (by decide)) _
    _ = (2 ^ 54 - 1) * 2 ^ 2044 := hunits _

/-- Settles O36: every difference is finite, so the residual step runs to its end, and `EBUF` holds the differences. -/
theorem finiteEstimateNeverFaultsResidual : Obligations.FiniteEstimateNeverFaultsResidual := by
  intro ref s hfmt hb hy
  have hfin (n : Nat) (hn : n < s.lenN) :
      s.num.finite (residualAt s.num (if ref then s.dAt else s.xAt) s.yAt n) = true := by
    rw [num_of_default hfmt]
    exact b64Sub_cvt_finite _ _ (hy n hn)
  obtain ⟨t, ht, he, -, hframe⟩ := residualComputesError ref s hb hfin
  refine ⟨t, ht, by rw [hframe], by rw [hframe], fun n hn => ?_⟩
  have hn' := hfin n hn
  rw [num_finite, format_of_default hfmt] at hn'
  rwa [he, if_pos hn]

end Sys2Proof.Machine
end

section
/-! PROOFS. O29, O30 and O35: ADAPT, completed or ended by its first non-finite update, and with learning rate zero
(R163 to R169). -/

namespace Sys2Proof.Machine

/-! ### How the adapt pass ends (R165, R169) -/

section
variable {α : Type} [DecidableEq α] {F : NumOps α} {mu : α} {N L : Nat} {x : Nat → Sample} {d : Datapath α}

/-- With finite updates no anomaly ends the pass. -/
theorem adpPass_completes (hL : 0 < L)
    (h : ∀ n < N, ∀ k < L, F.finite (coeffAt F mu (bufGet F.zero d.ebuf) x k (n + 1) (bufGet F.zero d.wmem k)) = true) :
    (adpPass F mu N L x d).2 = none := by
  cases hr : (adpPass F mu N L x d).2 with
  | none => rfl
  | some e =>
    obtain ⟨hn, hk, -, -, -, hnot⟩ := (adpPass_spec F mu N hL x d).2 e hr
    rw [h e.n hn e.k hk] at hnot
    cases hnot

/-- `e` is the first place at which `ok` fails, in the order of the updates: n, then the taps k < `L` (R165). -/
structure FirstFailure (ok : Nat → Nat → Bool) (L : Nat) (e : Anomaly) : Prop where
  tap : e.k < L
  samples : ∀ m < e.n, ∀ j < L, ok m j = true
  taps : ∀ j < e.k, ok e.n j = true
  fails : ok e.n e.k = false

/-- Nothing fails before the first failure. -/
theorem FirstFailure.not_before {ok : Nat → Nat → Bool} {e e' : Anomaly} (h : FirstFailure ok L e) (h' : FirstFailure ok L e') :
    ¬ (e'.n < e.n ∨ e'.n = e.n ∧ e'.k < e.k) := by
  rintro (hn | ⟨hn, hk⟩)
  · exact Bool.eq_false_iff.1 h'.fails (h.samples _ hn _ h'.tap)
  · exact Bool.eq_false_iff.1 h'.fails (hn ▸ h.taps _ hk)

/-- Two first failures are neither before the other. -/
theorem FirstFailure.unique {ok : Nat → Nat → Bool} {e e' : Anomaly} (h : FirstFailure ok L e) (h' : FirstFailure ok L e') :
    e' = e := by
  have hle := h.not_before h'
  have hge := h'.not_before h
  exact congrArg₂ Anomaly.mk (by omega) (by omega)

/-- The first update that is not finite ends the pass. -/
theorem adpPass_halts {e : Anomaly} (hL : 0 < L) (hn : e.n < N)
    (h : FirstFailure (fun n k => F.finite (coeffAt F mu (bufGet F.zero d.ebuf) x k (n + 1) (bufGet F.zero d.wmem k))) L e) :
    (adpPass F mu N L x d).2 = some e := by
  obtain ⟨hnone, hsome⟩ := adpPass_spec F mu N hL x d
  cases hr : (adpPass F mu N L x d).2 with
  | none => exact absurd ((hnone hr).2 e.n hn e.k h.tap) (Bool.eq_false_iff.1 h.fails)
  | some e' =>
    obtain ⟨-, htap, -, hsamples, htaps, hnot⟩ := hsome e' hr
    rw [h.unique ⟨htap, hsamples, htaps, hnot⟩]

end

/-- What the adapt pass changes of the state: it keeps the estimate, the residual and its quantised form. -/
theorem AdpUpTo.withDatapath_eq {s : State} {F : NumOps NumCode} {mu : NumCode} {L n c m : Nat} {x : Nat → Sample}
    {d : Datapath NumCode} (h : AdpUpTo F mu L x s.datapath n c m d) : s.withDatapath d =
      { s with tdl := d.tdl, acc := d.acc, g := d.g, wmem := d.wmem, seqr := d.seqr, freeCount := s.freeCount + 1 } := by
  rw [State.withDatapath, h.ybuf, h.ebuf, h.obuf]
  rfl

/-! ### O29 -/

/-- Settles O29: the adapt pass runs to its end, over `WMEM` and the delay line alone. -/
theorem adaptUpdatesCoefficients : Obligations.AdaptUpdatesCoefficients := by
  intro s hb ⟨hN, _, hL, _⟩ mu hfin
  have hr : (adpPass s.num s.mu s.lenN s.lenL s.xAt s.datapath).2 = none := adpPass_completes hL hfin
  obtain ⟨hadp, -⟩ := (adpPass_spec s.num s.mu s.lenN hL s.xAt s.datapath).1 hr
  refine ⟨_, exec_adapt_busy hb, ?_⟩
  rw [adaptBody, endPass_completes _ _ _ hr, hadp.withDatapath_eq]
  exact ⟨hadp.wmem, fun k => (hadp.line k).trans (lineAfter_frame hN _ k), rfl⟩

/-! ### O30 -/

/-- Settles O30: the adapt pass halts after tap `k` of sample `n`, whose update it has stored, with the line as that
sample left it. -/
theorem adaptAnomalyHalts : Obligations.AdaptAnomalyHalts := by
  intro s n k hb ⟨_, hNm, hL, hLm, _⟩ ⟨_, hcapN, _, hcapL⟩ hn hk mu hsamples htaps hnot
  have hr : (adpPass s.num s.mu s.lenN s.lenL s.xAt s.datapath).2 = some { n := n, k := k } :=
    adpPass_halts hL hn ⟨hk, hsamples, htaps, hnot⟩
  obtain ⟨-, -, hadp, -⟩ := (adpPass_spec s.num s.mu s.lenN hL s.xAt s.datapath).2 _ hr
  have hboundN : n < 2 ^ 14 := (hn.trans_le (hNm.trans hcapN)).trans (by decide)
  have hboundL : k < 2 ^ 14 := (hk.trans_le (hLm.trans hcapL)).trans (by decide)
  have hinfo : numericInfo 3#2 n k = BitVec.ofNat 32 (3 + 4 * n + 65536 * k) := numericInfo_eq 3#2 hboundN hboundL
  refine ⟨_, exec_adapt_busy hb, ?_⟩
  rw [adaptBody, endPass_halts _ _ _ hr, hinfo, hadp.withDatapath_eq, raiseError_numeric_eq]
  have hirq : s.irqPend ||| 0b10#2 ||| 0b01#2 = s.irqPend ||| 3#2 := BitVec.or_assoc ..
  refine ⟨fun j => (hadp.wmem j).trans ?_, hadp.line, by rw [← hirq]; rfl⟩
  by_cases hj : j ≤ k
  · rw [if_pos hj, if_pos (hj.trans_lt hk), if_pos (Nat.lt_succ_of_le hj)]
    rfl
  · rw [if_neg hj, if_neg (mt Nat.le_of_lt_succ hj)]
    rfl

/-! ### O35 -/

theorem sameValue.trans {a b c : Double} (h : sameValue a b) (h' : sameValue b c) : sameValue a c := by
  obtain rfl | ⟨ha, hb⟩ := h
  · exact h'
  · obtain rfl | ⟨-, hc⟩ := h'
    · exact .inr ⟨ha, hb⟩
    · exact .inr ⟨ha, hc⟩

theorem sameValue.finite {a b : Double} (h : sameValue a b) (hb : b64Finite b = true) : b64Finite a = true := by
  obtain rfl | ⟨ha, -⟩ := h
  · exact hb
  · exact b64_zero_finite ha

/-- Adding a zero keeps the value: a zero may change its sign (R119). -/
theorem b64Add_sameValue (nan : Double) {a z : Double} (ha : b64Finite a = true) (hz : b64IsZero z = true) :
    sameValue (b64Add nan a z) a := by
  obtain ⟨hzeros, hneutral, -⟩ := signedZeros nan a z
  cases h0 : b64IsZero a with
  | true =>
    rw [hzeros h0 hz]
    exact .inr ⟨b64IsZero_b64Zero _, h0⟩
  | false => exact .inl (hneutral ha h0 hz).1

/-- A zero times a finite number is a zero (R114). -/
theorem b64Mul_isZero (nan : Double) {a b : Double} (ha : b64IsZero a = true) (hb : b64Finite b = true) :
    b64IsZero (b64Mul nan a b) = true := by
  obtain ⟨-, -, hmul⟩ := signedZeros nan a b
  rw [(hmul ha hb).1]
  exact b64IsZero_b64Zero _

/-- With learning rate zero every update adds a zero, so a coefficient keeps its value (R167). -/
theorem coeffAt_sameValue (nan : Double) {mu w0 : Double} {e : Nat → Double} {n : Nat} (hmu : b64IsZero mu = true)
    (he : ∀ j < n, b64Finite (e j) = true) (hw : b64Finite w0 = true) (x : Nat → Sample) (k : Nat) :
    sameValue (coeffAt (binary64 nan) mu e x k n w0) w0 := by
  refine List.foldlRecOn (motive := (sameValue · w0)) _ _ (.inl rfl) fun w hsame j hj => ?_
  have hgain : b64IsZero (b64Mul nan mu (e j)) = true := b64Mul_isZero nan hmu (he j (List.mem_range.1 hj))
  have hprod := b64Mul_isZero nan hgain (b64Cvt_exact (delayAt x j k)).1
  exact (b64Add_sameValue nan (hsame.finite hw) hprod).trans hsame

/-- Settles O35: every update has the value of the coefficient, so it is finite, and `WMEM` holds the updates. -/
theorem zeroRateKeepsCoefficients : Obligations.ZeroRateKeepsCoefficients := by
  intro s hfmt hb hcfg hmu he hw
  have hkeep (n : Nat) (hn : n ≤ s.lenN) (k : Nat) (hk : k < s.lenL) :
      sameValue (coeffAt s.num (s.num.dec (s.cfgMuHi ++ s.cfgMuLo)) s.eAt s.xAt k n (s.wAt k)) (s.wAt k) := by
    rw [num_of_default hfmt]
    exact coeffAt_sameValue _ hmu (fun j hj => he j (hj.trans_le hn)) (hw k hk) s.xAt k
  have hfin (n : Nat) (hn : n < s.lenN) (k : Nat) (hk : k < s.lenL) :
      s.num.finite (coeffAt s.num (s.num.dec (s.cfgMuHi ++ s.cfgMuLo)) s.eAt s.xAt k (n + 1) (s.wAt k)) = true := by
    rw [num_finite, format_of_default hfmt]
    exact (hkeep (n + 1) hn k hk).finite (hw k hk)
  obtain ⟨t, ht, htw, -, hframe⟩ := adaptUpdatesCoefficients s hb hcfg hfin
  refine ⟨t, ht, fun k => ?_, by rw [hframe], by rw [hframe], by rw [hframe], by rw [hframe]⟩
  rw [htw]
  split
  · exact hkeep _ le_rfl k ‹_›
  · exact .inl rfl

end Sys2Proof.Machine
end

section
/-! PROOFS. O32 and O31: the complete step of PROCESS, ended by the first anomaly, or a whole cycle (R175, R176). -/

namespace Sys2Proof.Machine

variable {ref : Bool} {s : State}

/-! ### O32: which body ends PROCESS (R176) -/

theorem andThen_true {r : State × Bool} (h : r.2 = true) (b : State → State × Bool) : andThen r b = b r.1 := if_pos h

theorem andThen_false {r : State × Bool} (h : r.2 = false) (b : State → State × Bool) : andThen r b = r :=
  if_neg (Bool.eq_false_iff.1 h)

theorem processBody_of_estimate_fails (h : (estimateBody s).2 = false) : processBody ref s = estimateBody s := by
  rw [processBody, andThen_false h, andThen_false h]

theorem processBody_of_residual_fails (h : (estimateBody s).2 = true) (h' : (residualBody ref (estimateBody s).1).2 = false) :
    processBody ref s = residualBody ref (estimateBody s).1 := by
  rw [processBody, andThen_true h, andThen_false h']

theorem processBody_of_both_end (h : (estimateBody s).2 = true) (h' : (residualBody ref (estimateBody s).1).2 = true) :
    processBody ref s = adaptBody (residualBody ref (estimateBody s).1).1 := by
  rw [processBody, andThen_true h, andThen_true h']

/-- Settles O32: the body that ends PROCESS is that of the command, completed from the state the earlier bodies left, which is
still busy. -/
theorem processEndsAtFirstAnomaly : Obligations.ProcessEndsAtFirstAnomaly := by
  intro ref s hb
  have hE : (estimateBody s).1.busy = true := (congrArg State.busy (estimateBody_frame s)).trans hb
  have hR : (residualBody ref (estimateBody s).1).1.busy = true :=
    (congrArg State.busy (residualBody_frame ref (estimateBody s).1)).trans hE
  refine ⟨fun h => ?_, fun h h' => ?_, fun h h' => ?_⟩ <;> rw [exec_process_busy hb]
  · rw [processBody_of_estimate_fails h, exec_estimate_busy hb]
  · rw [processBody_of_residual_fails h h', exec_residual_busy hE]
  · rw [processBody_of_both_end h h', exec_adapt_busy hR]

/-! ### Finite values do not depend on the NaN pattern (R118, R126) -/

section
variable {fmt : BitVec 8} {nan nan' : Double} (hn : b64IsNaN nan = true) (hn' : b64IsNaN nan' = true)
include hn hn'

theorem convAt_eq_of_finite {w : Nat → NumCode} {x : Nat → Sample} {L n : Nat}
    (hf : (numOf fmt nan).finite (convAt (numOf fmt nan) w x L n) = true) :
    convAt (numOf fmt nan) w x L n = convAt (numOf fmt nan') w x L n := by
  have halike : sameCode fmt (convAt (numOf fmt nan) w x L n) (convAt (numOf fmt nan') w x L n) :=
    List.foldl_rel (sameCode.refl _ _) fun k _ _ _ ha =>
      sameCode_add hn hn' ha (sameCode_mul hn hn' (sameCode.refl _ _) (sameCode.refl _ _))
  exact eq_of_sameCode_of_finite halike hf

theorem residualAt_eq_of_finite {src : Nat → Sample} {y : Nat → NumCode} {n : Nat}
    (hf : (numOf fmt nan).finite (residualAt (numOf fmt nan) src y n) = true) :
    residualAt (numOf fmt nan) src y n = residualAt (numOf fmt nan') src y n :=
  eq_of_sameCode_of_finite (sameCode_sub hn hn' (sameCode.refl _ _) (sameCode.refl _ _)) hf

theorem coeffAt_eq_of_finite {mu w0 : NumCode} {e : Nat → NumCode} {x : Nat → Sample} {k n : Nat}
    (hf : (numOf fmt nan).finite (coeffAt (numOf fmt nan) mu e x k n w0) = true) :
    coeffAt (numOf fmt nan) mu e x k n w0 = coeffAt (numOf fmt nan') mu e x k n w0 := by
  have halike : sameCode fmt (coeffAt (numOf fmt nan) mu e x k n w0) (coeffAt (numOf fmt nan') mu e x k n w0) :=
    List.foldl_rel (sameCode.refl _ _) fun j _ _ _ ha =>
      sameCode_add hn hn' ha
        (sameCode_mul hn hn' (sameCode_mul hn hn' (sameCode.refl _ _) (sameCode.refl _ _)) (sameCode.refl _ _))
  exact eq_of_sameCode_of_finite halike hf

end

/-! ### The bodies without anomaly, over any NaN pattern (R147, R156, R165) -/

/-- What the passes read and no body changes: the NUM, the configuration and the input frames. -/
theorem State.passFrame.reads {t : State} (h : s.passFrame t) : t.capFmt = s.capFmt ∧ t.lenN = s.lenN ∧ t.lenL = s.lenL ∧
    t.mu = s.mu ∧ t.xAt = s.xAt ∧ t.srcAt ref = s.srcAt ref := by
  have kept {β : Type} (field : State → β) := congrArg field h
  exact ⟨kept State.capFmt, kept State.lenN, kept State.lenL, kept State.mu, kept State.xAt, kept (State.srcAt · ref)⟩

section
variable {nan : Double} (hnan : b64IsNaN nan = true)
include hnan

theorem estimateBody_completes (hL : 0 < s.lenL)
    (hfin : ∀ n < s.lenN, (numOf s.capFmt nan).finite (convAt (numOf s.capFmt nan) s.wAt s.xAt s.lenL n) = true) :
    ∃ d, estimateBody s = (estimateDone (s.withDatapath d), true) ∧
      EstUpTo (numOf s.capFmt nan) s.lenL s.xAt s.datapath s.lenN d := by
  have heq (n : Nat) (hn : n < s.lenN) :
      convAt (numOf s.capFmt nan) s.wAt s.xAt s.lenL n = convAt s.num s.wAt s.xAt s.lenL n :=
    convAt_eq_of_finite hnan (b64IsNaN_freeNaN s) (hfin n hn)
  have hr : (estPass s.num s.lenN s.lenL s.xAt s.datapath).2 = none :=
    estPass_completes hL fun n hn => (congrArg s.num.finite (heq n hn)).symm.trans (hfin n hn)
  obtain ⟨h, -⟩ := (estPass_spec s.num s.lenN hL s.xAt s.datapath).1 hr
  refine ⟨_, endPass_completes _ _ _ hr, h.line, fun n => (h.ybuf n).trans ?_, h.g, h.wmem, h.ebuf, h.obuf⟩
  exact ite_congr rfl (fun hn => (heq n hn).symm) fun _ => rfl

/-- The residual body on a state `t` that earlier bodies left. -/
theorem residualBody_completes {t : State} (hframe : s.passFrame t)
    (hfin : ∀ n < s.lenN, (numOf s.capFmt nan).finite (residualAt (numOf s.capFmt nan) (s.srcAt ref)
      (bufGet (numOf s.capFmt nan).zero t.datapath.ybuf) n) = true) :
    ∃ d, residualBody ref t = (residualDone ref (t.withDatapath d), true) ∧
      ResUpTo (numOf s.capFmt nan) (s.srcAt ref) t.datapath s.lenN s.lenN d := by
  obtain ⟨hfmt, hN, -, -, -, hsrc⟩ := hframe.reads (ref := ref)
  rw [← hfmt, ← hN, ← hsrc] at hfin ⊢
  have heq (n : Nat) (hn : n < t.lenN) :
      residualAt (numOf t.capFmt nan) (t.srcAt ref) t.yAt n = residualAt t.num (t.srcAt ref) t.yAt n :=
    residualAt_eq_of_finite hnan (b64IsNaN_freeNaN t) (hfin n hn)
  have hr : (resPass t.num t.lenN (t.srcAt ref) t.datapath).2 = none :=
    resPass_completes fun n hn => (congrArg t.num.finite (heq n hn)).symm.trans (hfin n hn)
  obtain ⟨h, -⟩ := (resPass_spec t.num t.lenN (t.srcAt ref) t.datapath).1 hr
  refine ⟨_, endPass_completes _ _ _ hr, fun n => (h.ebuf n).trans ?_, fun n => (h.obuf n).trans ?_, h.tdl, h.acc, h.g,
    h.wmem, h.ybuf⟩
  · exact ite_congr rfl (fun hn => (heq n hn).symm) fun _ => rfl
  · exact ite_congr rfl (fun hn => congrArg t.num.q16 (heq n hn).symm) fun _ => rfl

/-- The adapt body on a state `t` that earlier bodies left. -/
theorem adaptBody_completes {t : State} (hframe : s.passFrame t) (hN : 1 ≤ s.lenN) (hL : 0 < s.lenL)
    (hfin : ∀ n < s.lenN, ∀ k < s.lenL, (numOf s.capFmt nan).finite (coeffAt (numOf s.capFmt nan) s.mu
      (bufGet (numOf s.capFmt nan).zero t.datapath.ebuf) s.xAt k (n + 1)
      (bufGet (numOf s.capFmt nan).zero t.datapath.wmem k)) = true) :
    ∃ d, adaptBody t = (adaptDone (t.withDatapath d), true) ∧
      AdpUpTo (numOf s.capFmt nan) s.mu s.lenL s.xAt t.datapath s.lenN 0 s.lenN d := by
  obtain ⟨hfmt, hlenN, hlenL, hmu, hx, -⟩ := hframe.reads (ref := false)
  rw [← hlenN] at hN
  rw [← hlenL] at hL
  rw [← hfmt, ← hlenN, ← hlenL, ← hmu, ← hx] at hfin ⊢
  have heq (n : Nat) (hn : n < t.lenN) (k : Nat) (hk : k < t.lenL) :
      coeffAt (numOf t.capFmt nan) t.mu t.eAt t.xAt k (n + 1) (t.wAt k)
        = coeffAt t.num t.mu t.eAt t.xAt k (n + 1) (t.wAt k) :=
    coeffAt_eq_of_finite hnan (b64IsNaN_freeNaN t) (hfin n hn k hk)
  have hr : (adpPass t.num t.mu t.lenN t.lenL t.xAt t.datapath).2 = none :=
    adpPass_completes hL fun n hn k hk => (congrArg t.num.finite (heq n hn k hk)).symm.trans (hfin n hn k hk)
  obtain ⟨h, -⟩ := (adpPass_spec t.num t.mu t.lenN hL t.xAt t.datapath).1 hr
  have hlast (k : Nat) (hk : k < t.lenL) := heq (t.lenN - 1) (Nat.sub_lt hN one_pos) k hk
  rw [Nat.sub_add_cancel hN] at hlast
  refine ⟨_, endPass_completes _ _ _ hr, h.line, fun k => (h.wmem k).trans ?_, h.acc, h.ybuf, h.ebuf, h.obuf⟩
  exact ite_congr rfl (fun hk => (hlast k hk).symm) fun _ => rfl

end

/-! ### O31 -/

section
variable {α : Type} [DecidableEq α] {F : NumOps α} {N L : Nat} {x src : Nat → Sample} {d d1 d2 : Datapath α}

/-- The residual step after the estimate pass subtracts the estimate of the coefficients the pass found. -/
theorem EstUpTo.residualAt_eq (h : EstUpTo F L x d N d1) (src : Nat → Sample) {n : Nat} (hn : n < N) :
    residualAt F src (bufGet F.zero d1.ybuf) n = residualAt F src (convAt F (bufGet F.zero d.wmem) x L) n :=
  congrArg (F.sub (F.cvt (src n))) ((h.ybuf n).trans (if_pos hn))

/-- The updates after the residual step are those by the residual `e` it computed. -/
theorem ResUpTo.coeffAt_eq (h : ResUpTo F src d1 N N d2) {e : Nat → α}
    (he : ∀ n < N, residualAt F src (bufGet F.zero d1.ybuf) n = e n) (mu : α) (k : Nat) {n : Nat} (hn : n ≤ N) (w0 : α) :
    coeffAt F mu (bufGet F.zero d2.ebuf) x k n w0 = coeffAt F mu e x k n w0 :=
  List.foldl_ext _ _ _ fun w j hj => by
    have hj' : j < N := (List.mem_range.1 hj).trans_le hn
    rw [h.ebuf, if_pos hj', he j hj']

end

/-- Where the last pass of a cycle leaves the state. -/
theorem adaptDone_cycle (ref : Bool) (s : State) (d1 d2 d3 : Datapath NumCode) :
    adaptDone ((residualDone ref ((estimateDone (s.withDatapath d1)).withDatapath d2)).withDatapath d3) =
      { s.withDatapath d3 with
        yFresh := false, eFresh := false, eRef := ref, seq := s.seq + 1#64, freeCount := s.freeCount + 1 + 1 + 1 } := by
  simp only [adaptDone, residualDone, estimateDone, State.withDatapath]

/-- Settles O31: each body runs to its end, over what the one before it left, and keeps what the others compute. -/
theorem processRunsWholeCycle : Obligations.ProcessRunsWholeCycle := by
  intro ref s nan hb ⟨hN, _, hL, _⟩ hnan F mu y e hy he hw
  obtain ⟨d1, hE, hest⟩ := estimateBody_completes hnan hL hy
  have hres_eq (n : Nat) (hn : n < s.lenN) : residualAt F (s.srcAt ref) (bufGet F.zero d1.ybuf) n = e n := by
    rw [srcAt_eq]
    exact hest.residualAt_eq _ hn
  obtain ⟨d2, hR, hres⟩ := residualBody_completes (ref := ref) (t := estimateDone (s.withDatapath d1)) hnan rfl
    fun n hn => (congrArg F.finite (hres_eq n hn)).trans (he n hn)
  have hwmem : bufGet F.zero d2.wmem = s.wAt := congrArg (bufGet F.zero) (hres.wmem.trans hest.wmem)
  have hcoeff (n : Nat) (hn : n ≤ s.lenN) (k : Nat) :
      coeffAt F mu (bufGet F.zero d2.ebuf) s.xAt k n (bufGet F.zero d2.wmem k) = coeffAt F mu e s.xAt k n (s.wAt k) := by
    rw [hwmem]
    exact hres.coeffAt_eq hres_eq mu k hn _
  obtain ⟨d3, hA, hadp⟩ := adaptBody_completes
    (t := residualDone ref ((estimateDone (s.withDatapath d1)).withDatapath d2)) hnan rfl hN hL
    fun n hn k hk => (congrArg F.finite (hcoeff (n + 1) hn k)).trans (hw n hn k hk)
  refine ⟨_, exec_process_busy hb, ?_⟩
  have hE2 : (estimateBody s).2 = true := congrArg Prod.snd hE
  rw [processBody_of_both_end hE2 (by rw [hE, hR]), hE, hR, hA, adaptDone_cycle]
  refine ⟨fun n => ?_, fun n => ?_, fun n => ?_, fun k => ?_, fun k => ?_, rfl⟩
  · exact (congrArg (bufGet F.zero · n) (hadp.ybuf.trans hres.ybuf)).trans (hest.ybuf n)
  · refine (congrArg (bufGet F.zero · n) hadp.ebuf).trans ((hres.ebuf n).trans (ite_congr rfl (hres_eq n) fun _ => ?_))
    exact congrArg (bufGet F.zero · n) hest.ebuf
  · refine (congrArg (bufGet 0#16 · n) hadp.obuf).trans ((hres.obuf n).trans (ite_congr rfl (fun hn => ?_) fun _ => ?_))
    · exact congrArg F.q16 (hres_eq n hn)
    · exact congrArg (bufGet 0#16 · n) hest.obuf
  · exact (hadp.wmem k).trans (ite_congr rfl (fun _ => hcoeff s.lenN le_rfl k) fun _ => congrFun hwmem k)
  · refine ((hadp.line k).trans (lineAfter_frame hN _ k)).trans (ite_congr rfl (fun _ => rfl) fun hk => ?_)
    refine (congrArg (bufGet 0#16 · k) hres.tdl).trans ((hest.line k).trans ?_)
    exact if_neg hk

end Sys2Proof.Machine
end

section
/-! PROOFS. O33: the script of PROCESS and that of the three commands end alike (R177). After each command of CYCLE3 the machine is
`State.Alike` to PROCESS completed there. The command that follows finds `BUSY` set again and `DONE` set already, which no body
looks at; once a body has failed, the commands that follow are refused and change nothing. -/

namespace Sys2Proof.Machine

variable {ref : Bool} {i : Instr} {rest : List Event} {s t : State}

/-! ### A halted engine (R189, R195) -/

/-- An error is recorded, and the engine waits for RESETW or DISPOSE. -/
structure State.Halted (s : State) : Prop where
  st : s.st = .fault
  err : s.err = true
  irqPend : s.irqPend ||| 0b10#2 = s.irqPend

theorem raiseError_numeric_halted (m : Word) (s : State) : (raiseError .numeric m s).Halted := by
  refine ⟨raiseError_st .numeric m s, raiseError_err .numeric m s, ?_⟩
  rw [raiseError_irqPend, BitVec.or_assoc, BitVec.or_self]

theorem endPass_halted {stage : BitVec 2} {done : State → State} {r : Datapath NumCode × Option Anomaly}
    (h : (endPass stage done s r).2 = false) : (endPass stage done s r).1.Halted := by
  rcases endPass_cases stage done s r with ⟨-, he⟩ | ⟨e, -, he⟩ <;> rw [he] at h ⊢
  · cases h
  · exact raiseError_numeric_halted _ _

namespace State.Halted

theorem complete (h : s.Halted) : (completeCommand s).Halted := by
  have hirq : s.irqPend ||| 0b01#2 ||| 0b10#2 = s.irqPend ||| 0b10#2 ||| 0b01#2 := by ac_rfl
  exact ⟨h.st, h.err, hirq.trans (congrArg (· ||| 0b01#2) h.irqPend)⟩

theorem of_alike (h : s.Halted) (ha : s.Alike t) : t.Halted :=
  ⟨(ha.read State.st).symm.trans h.st, (ha.read State.err).symm.trans h.err, ha.read State.irqPend ▸ h.irqPend⟩

/-- A further error of a halted engine leaves no trace: the first one is kept (R189). -/
theorem raiseError_eq_self (h : s.Halted) {c : Cause} (hc : c ≠ .numeric) (m : Word) : raiseError c m s = s := by
  obtain ⟨-, herr, hirq⟩ := h
  rw [raiseError_eq hc, hirq, herr]
  cases s
  simp_all

/-- A command that needs an engine in READY is refused, which a halted engine does not show (R136). -/
theorem exec_eq_self (h : s.Halted) (hb : s.busy = false) (hl : i.isLong = true) (hp : permitted i s = false) :
    exec i s = .next s := by
  obtain ⟨check, body, he, -⟩ := exec_long s hl
  rw [he]
  rcases runLong_cases i check body s with ⟨h1, -⟩ | ⟨-, -, h1⟩ | ⟨-, h1, -⟩
  · rw [hb] at h1; cases h1
  · rw [h1, h.raiseError_eq_self (c := .sequence) nofun]
  · rw [hp] at h1; cases h1

end State.Halted

/-! ### A command and its WAIT in a script (R100, R101) -/

/-- The port has answered OK to the write that delivers a command. -/
def State.answered (l : List Event) (s : State) : State := respond .done { s with inputs := l }

theorem permitted_answered (i : Instr) (l : List Event) (s : State) : permitted i (s.answered l) = permitted i s := by
  cases i <;> rfl

/-- A command that is accepted has been delivered (R130). -/
def State.latched (i : Instr) (l : List Event) (s : State) : State := acceptCommand (encode i) (s.answered l)

theorem latched_withInputs (i : Instr) (l : List Event) (s : State) :
    { s.latched i l with inputs := rest } = s.latched i rest := rfl

theorem run_step (h : step s = .next t) (k : Nat) : Sys2Proof.core.run (k + 1) s = Sys2Proof.core.run k t := by
  have h' : Sys2Proof.core.step s = .next t := h
  simp only [Host.Core.run, h']

theorem step_deliver (hin : s.inputs = .write cmdOffset (encode i) :: rest) (hb : s.busy = false) :
    step s = exec i (s.answered rest) :=
  stepRunsDeliveredCommand s (encode i) rest i hin hb (decode_encode i)

theorem step_wait (hin : s.inputs = .engine :: rest) (hb : s.busy = true) (hd : s.pend = encode i) (hl : i.isLong = true) :
    step s = .next (completeCommand (longBody i { s with inputs := rest })) :=
  ((stepCompletesPendingCommand s i hb (hd ▸ decode_encode i) hl).2 rest hin).trans (exec_long_busy hl hb)

/-- A permitted command is accepted and completed. -/
theorem run_accepted (hin : s.inputs = scriptCmd i ++ scriptWait ++ rest) (hb : s.busy = false) (hl : i.isLong = true)
    (hi : i ≠ .configure) (hp : permitted i s = true) (k : Nat) :
    Sys2Proof.core.run (k + 2) s = Sys2Proof.core.run k (completeCommand (longBody i (s.latched i rest))) := by
  have hdeliver : step s = .next (s.latched i (.engine :: rest)) :=
    (step_deliver hin hb).trans (exec_accepted hb ((permitted_answered i _ s).trans hp) hl fun h => absurd h hi)
  have hcomplete := step_wait (s := s.latched i (.engine :: rest)) (i := i) rfl rfl rfl hl
  rw [run_step hdeliver, run_step hcomplete, latched_withInputs]

/-- A command that follows a failing one is refused, and its WAIT finds the engine idle. -/
theorem run_halted (h : s.Halted) (hin : s.inputs = scriptCmd i ++ scriptWait ++ rest) (hb : s.busy = false)
    (hl : i.isLong = true) (hp : permitted i s = false) (k : Nat) :
    Sys2Proof.core.run (k + 2) s = Sys2Proof.core.run k (s.answered rest) := by
  have hanswered : (s.answered (.engine :: rest)).Halted := ⟨h.st, h.err, h.irqPend⟩
  have hdeliver : step s = .next (s.answered (.engine :: rest)) :=
    (step_deliver hin hb).trans (hanswered.exec_eq_self hb hl ((permitted_answered i _ s).trans hp))
  have hwait := (idleMachineWaits (s.answered (.engine :: rest)) hb).2 rest rfl
  rw [run_step hdeliver, run_step hwait]
  rfl

/-! ### A body after completed commands (R176) -/

/-- A further command is in flight: `BUSY` is set again, and `DONE` is set by the command before. -/
def State.resumed (s : State) : State := { s with busy := true, irqPend := s.irqPend ||| 0b01#2 }

theorem completeCommand_resumed (s : State) : completeCommand s.resumed = completeCommand s := by
  have hdone : s.irqPend ||| 0b01#2 ||| 0b01#2 = s.irqPend ||| 0b01#2 := by rw [BitVec.or_assoc, BitVec.or_self]
  simp only [completeCommand, State.resumed, hdone]

theorem raiseError_resumed (m : Word) (s : State) : raiseError .numeric m s.resumed = (raiseError .numeric m s).resumed := by
  have hirq : s.irqPend ||| 0b01#2 ||| 0b10#2 = s.irqPend ||| 0b10#2 ||| 0b01#2 := by ac_rfl
  rw [raiseError_numeric_eq, raiseError_numeric_eq, State.resumed, State.resumed, ← hirq]

/-- A pass ends alike whatever `BUSY` and `IRQ_PEND` are, but for these registers. -/
theorem endPass_resumed (stage : BitVec 2) (done : State → State) (hdone : ∀ u : State, done u.resumed = (done u).resumed)
    (s : State) (r : Datapath NumCode × Option Anomaly) :
    (endPass stage done s.resumed r).1 = (endPass stage done s r).1.resumed := by
  have hw : s.resumed.withDatapath r.1 = (s.withDatapath r.1).resumed := rfl
  rcases hr : r.2 with _ | e
  · rw [endPass_completes _ _ _ hr, endPass_completes _ _ _ hr, hw, hdone]
  · rw [endPass_halts _ _ _ hr, endPass_halts _ _ _ hr, hw, raiseError_resumed]

theorem residualBody_resumed (ref : Bool) (s : State) : (residualBody ref s.resumed).1 = (residualBody ref s).1.resumed :=
  endPass_resumed 2#2 (residualDone ref) (fun _ => rfl) s _

theorem adaptBody_resumed (s : State) : (adaptBody s.resumed).1 = (adaptBody s).1.resumed :=
  endPass_resumed 3#2 adaptDone (fun _ => rfl) s _

/-! ### The two scripts side by side (R177) -/

/-- What CYCLE3 lists after ESTIMATE and its WAIT (R101). -/
def scriptAfterEstimate (ref : Bool) : List Event :=
  scriptCmd (.residual ref) ++ scriptWait ++ (scriptCmd .adapt ++ scriptWait ++ [])

/-- In a script, `t` is where PROCESS would be if it completed at `s`, and `rest` is to come. -/
structure Follows (s : State) (rest : List Event) (t : State) : Prop where
  alike : (completeCommand s).Alike t
  inputs : t.inputs = rest

namespace Follows

theorem idle (h : Follows s rest t) : t.busy = false := (h.alike.read State.busy).symm

theorem permitted_eq (h : Follows s rest t) (i : Instr) : permitted i t = permitted i s := by
  have hread := h.alike.read (permitted i) fun u => by cases i <;> rfl
  rw [← hread]
  cases i <;> rfl

/-- After the latch of the next command nothing but hidden registers tells `t` from `s`, resumed. -/
theorem resumed (h : Follows s rest t) (i : Instr) (l : List Event) : s.resumed.Alike (t.latched i l) :=
  have hl := h.alike.update (State.latched i l)
  ⟨hl.common, hl.wmem, hl.ybuf, hl.ebuf⟩

/-- ESTIMATE, in flight in `t`, does what the first body of PROCESS does. -/
theorem estimate (h : s.Alike t) (hin : t.inputs = rest) :
    Follows (estimateBody s).1 rest (completeCommand (longBody .estimate t)) :=
  ⟨(estimateBody_alike h).1.complete, (congrArg State.inputs (estimateBody_frame t)).trans hin⟩

/-- The next command does what the next body of PROCESS does. -/
theorem accepted (h : Follows s (scriptCmd i ++ scriptWait ++ rest) t) (hl : i.isLong = true) (hi : i ≠ .configure)
    (hp : permitted i s = true) (hbody : longBody i s.resumed = (longBody i s).resumed) :
    ∃ u, Follows (longBody i s) rest u ∧ ∀ k, Sys2Proof.core.run (k + 2) t = Sys2Proof.core.run k u := by
  refine ⟨_, ⟨?_, ?_⟩, run_accepted h.inputs h.idle hl hi ((h.permitted_eq i).trans hp)⟩
  · have hend := (longBody_alike (h.resumed i rest) i).complete
    rwa [hbody, completeCommand_resumed] at hend
  · exact congrArg State.inputs (longBody_frame hi (t.latched i rest))

/-- Once a body has failed the next command changes nothing. -/
theorem halted (h : Follows s (scriptCmd i ++ scriptWait ++ rest) t) (hs : s.Halted) (hl : i.isLong = true)
    (hp : permitted i s = false) :
    ∃ u, Follows s rest u ∧ ∀ k, Sys2Proof.core.run (k + 2) t = Sys2Proof.core.run k u := by
  refine ⟨_, ⟨?_, rfl⟩,
    run_halted (hs.complete.of_alike h.alike) h.inputs h.idle hl ((h.permitted_eq i).trans hp)⟩
  exact ⟨h.alike.common, h.alike.wmem, h.alike.ybuf, h.alike.ebuf⟩

/-- RESIDUAL and ADAPT after ESTIMATE end as the rest of PROCESS does. -/
theorem process (h : Follows (estimateBody s).1 (scriptAfterEstimate ref) t) (hst : s.st = .ready) :
    ∃ u, Follows (processBody ref s).1 [] u ∧ Sys2Proof.core.run 4 t = .next u := by
  have refused {u : State} (hu : u.Halted) : permitted (.residual ref) u = false ∧ permitted .adapt u = false := by
    simp [permitted, hu.st]
  cases hE : (estimateBody s).2 with
  | false =>
    have hs : (estimateBody s).1.Halted := endPass_halted hE
    obtain ⟨t2, h2, hrun2⟩ := h.halted hs rfl (refused hs).1
    obtain ⟨t3, h3, hrun3⟩ := h2.halted hs rfl (refused hs).2
    rw [processBody_of_estimate_fails hE]
    exact ⟨t3, h3, (hrun2 2).trans (hrun3 0)⟩
  | true =>
    obtain ⟨hst1, hy1⟩ := estimateBody_true hE
    have hp : permitted (.residual ref) (estimateBody s).1 = true := by simp [permitted, hst1, hst, hy1]
    obtain ⟨t2, h2, hrun2⟩ := h.accepted rfl nofun hp (residualBody_resumed ref _)
    cases hR : (residualBody ref (estimateBody s).1).2 with
    | false =>
      have hs : (residualBody ref (estimateBody s).1).1.Halted := endPass_halted hR
      obtain ⟨t3, h3, hrun3⟩ := h2.halted hs rfl (refused hs).2
      rw [processBody_of_residual_fails hE hR]
      exact ⟨t3, h3, (hrun2 2).trans (hrun3 0)⟩
    | true =>
      have he2 : (residualBody ref (estimateBody s).1).1.eFresh = true := by
        rw [residualBody, endPass_true hR]
        rfl
      have hp2 : permitted .adapt (residualBody ref (estimateBody s).1).1 = true := by
        simp [permitted, residualBody_true hR, hst1, hst, he2]
      obtain ⟨t3, h3, hrun3⟩ := h2.accepted rfl nofun hp2 (adaptBody_resumed _)
      rw [processBody_of_both_end hE hR]
      exact ⟨t3, h3, (hrun2 2).trans (hrun3 0)⟩

end Follows

/-- Settles O33: PROCESS and ESTIMATE start from states alike, and the commands after ESTIMATE follow the bodies of PROCESS. -/
theorem processEqualsThreeCommands : Obligations.ProcessEqualsThreeCommands := by
  intro ref s _ hst hb
  have hp {i : Instr} (hi : i = .process ref ∨ i = .estimate) (l : List Event) :
      permitted i { s with inputs := l } = true := by
    rcases hi with rfl | rfl <;> simp [permitted, hst]
  have hrun := run_accepted (s := { s with inputs := scriptCycle ref }) (i := .process ref) (rest := []) rfl hb rfl nofun
    (hp (.inl rfl) _) 0
  have hrun3 := run_accepted (s := { s with inputs := scriptCycle3 ref }) (i := .estimate)
    (rest := scriptAfterEstimate ref) rfl hb rfl nofun
    (hp (.inr rfl) _) 4
  have hstart (l l' : List Event) : ({ s with inputs := scriptCycle ref }.latched (.process ref) l).Alike
      ({ s with inputs := scriptCycle3 ref }.latched .estimate l') := ⟨rfl, .refl _, .refl _, .refl _⟩
  obtain ⟨t, ht, hend⟩ := (Follows.estimate (hstart [] (scriptAfterEstimate ref)) rfl).process hst
  exact ⟨_, t, hrun, hrun3.trans hend, ht.alike.sameVisible⟩

end Sys2Proof.Machine
end

section
/-! PROOFS. O4, O18, O37 and O38: what an illegal word and a refused command leave (R190, R191), the error-recording sequence (R189)
and the interrupt line (R200). -/

namespace Sys2Proof.Machine

/-! ### An illegal word (R94, R191) -/

theorem dispatch_illegal {c : Word} {why : Illegal} (hd : decode c = .error why) (s : State) :
    dispatch c s = .next (raiseError .illegal c s) := by
  simp only [dispatch, hd]

/-- The word of a command meets no condition of R94. -/
theorem encode_legal (i : Instr) :
    (encode i).toNat / 512 = 0 ∧ (encode i).toNat % 256 ≤ 8 ∧
      ((encode i).toNat / 256 % 2 = 1 → (encode i).toNat % 256 = 5 ∨ (encode i).toNat % 256 = 7) := by
  cases i with
  | residual ref => cases ref <;> decide
  | process ref => cases ref <;> decide
  | nop | configure | dispose | resetw | estimate | adapt | clrerr => decide

/-- Settles O4: a word that decodes is that of its command, which is legal; so the decoder refuses the word, and its dispatch
records ILLEGAL. -/
theorem illegalWordIsRecorded : Obligations.IllegalWordIsRecorded := by
  intro s c rest hin hb hillegal
  cases hd : decode c with
  | ok i =>
    have hc : c = encode i := decode_eq_ok_iff.1 hd
    obtain ⟨hrsv, hopc, href⟩ := encode_legal i
    rw [hc] at hillegal
    omega
  | error why =>
    calc step s
      _ = dispatch c (respond .done { s with inputs := rest }) :=
        (step_cons hin).trans (hostWrite_cmd_idle (s := { s with inputs := rest }) hb c)
      _ = .next (raiseError .illegal c (respond .done { s with inputs := rest })) := dispatch_illegal hd _
      _ = _ := congrArg _ (raiseError_eq (c := .illegal) nofun c _)

/-! ### A refused command (R136, R190) -/

/-- The delivery of a command that R136 does not permit, short or long. -/
theorem exec_refused {i : Instr} {s : State} (hb : s.busy = false) (hp : permitted i s = false) :
    exec i s = .next (raiseError .sequence (encode i) s) := by
  rcases exec_short_or_long i s with ⟨-, body, he⟩ | ⟨-, check, body, he⟩
  · exact he.trans (by simp [runShort, hb, hp])
  · exact he.trans (by simp [runLong, hb, hp])

/-- Settles O18: the machine permits only what R136 allows, and a command it does not permit records SEQUENCE. -/
theorem refusedCommandIsRecorded : Obligations.RefusedCommandIsRecorded := by
  intro i s hb ha
  have hp : permitted i s = false := (permitted_eq_commandAllowed i s).trans ha
  exact ⟨encode i, decode_encode i, (exec_refused hb hp).trans (congrArg _ (raiseError_eq (c := .sequence) nofun _ s))⟩

/-! ### The record and the interrupt line (R189, R200) -/

/-- Settles O37: what `raiseError` leaves in each field it sets, for an error recorded already or not, and for NUMERIC or
another cause. -/
theorem firstErrorIsKept : Obligations.FirstErrorIsKept := by
  intro c info s
  refine ⟨raiseError_err c info s, fun hno => ?_, fun hyes => ?_, ?_, ?_, fun hnum => ?_, fun hother => ?_⟩
  · rw [raiseError_cause, raiseError_einfo, hno]
    exact ⟨rfl, rfl⟩
  · rw [raiseError_cause, raiseError_einfo, hyes]
    exact ⟨rfl, rfl⟩
  · rw [raiseError_irqPend]
    simp
  · rw [raiseError_irqPend]
    simp
  · rw [raiseError_st, raiseError_yFresh, raiseError_eFresh]
    exact ⟨if_pos hnum, if_pos hnum, if_pos hnum⟩
  · rw [raiseError_st, raiseError_yFresh, raiseError_eFresh]
    exact ⟨if_neg hother, if_neg hother, if_neg hother⟩

/-- Settles O38: a word of two bits is not 0 exactly when one of its bits is 1. -/
theorem interruptLine : Obligations.InterruptLine := by
  intro s
  have hbits : s.irqPend &&& s.irqEn = 0#2 ↔ ∀ b < 2, (s.irqPend &&& s.irqEn).getLsbD b = false := by
    simp [BitVec.eq_of_getLsbD_eq_iff]
  simp [State.irq, hbits]

end Sys2Proof.Machine
end

section
/-! PROOFS. O51: the reset event (R215, R217), in any state. -/

namespace Sys2Proof.Machine

/-- The step that takes the reset event. -/
theorem step_reset {s : State} {rest : List Event} (h : s.inputs = .reset :: rest) :
    step s = .next (resetMachine { s with inputs := rest }) := step_cons h

theorem resetMachine_phase (s : State) : (resetMachine s).seqr.phase = .idle := rfl

/-- The two draws of free values of a reset reach the buffers and the hidden registers alone. -/
theorem resetMachine_frame (s : State) :
    resetMachine s = { State.reset with
      capN := s.capN, capL := s.capL, capFmt := s.capFmt, inputs := s.inputs, resps := s.resps
      xbuf := (resetMachine s).xbuf, dbuf := (resetMachine s).dbuf, obuf := (resetMachine s).obuf
      ybuf := (resetMachine s).ybuf, ebuf := (resetMachine s).ebuf, wmem := (resetMachine s).wmem
      tdl := (resetMachine s).tdl, acc := (resetMachine s).acc, g := (resetMachine s).g
      pend := (resetMachine s).pend, seqr := (resetMachine s).seqr, freeCount := (resetMachine s).freeCount } := rfl

/-- Settles O51: the step resets the machine, whatever `BUSY` was, and a reset leaves the sequencer idle, the buffers canonical
and every other register at its reset value. -/
theorem resetEventAbandonsEverything : Obligations.ResetEventAbandonsEverything := by
  intro s rest hin
  exact ⟨resetMachine { s with inputs := rest }, step_reset hin, resetMachine_phase _, resetMachine_memory_wf _,
    resetMachine_frame _⟩

end Sys2Proof.Machine
end
